-- ==== Sys2Proof/Word.lean ====
section
/-! DEFINITION. The word types of the JPacketeer link block (00_scope.md R12): every value is an
unsigned bit vector of a fixed width, bit 0 the least significant. -/

namespace Sys2Proof

/-- A byte, `0..255` (R12). -/
abbrev Byte := BitVec 8

/-- A 16-bit value: the CRC register, a payload length, a checksum. -/
abbrev Half := BitVec 16

/-- A command word of the host command port (30_encoding.md R70). -/
abbrev Word := BitVec 32

/-- A 64-bit value: `RESULT` (10_state.md R25), and the storage of a `W`-bit tracker mask. -/
abbrev Long := BitVec 64

end Sys2Proof
end

