-- ==== Sys2Proof/Syntax.lean ====
section
/-! DEFINITION. The commands of the host command port: one constructor per row of
spec/opcode_table.json, with the operands the row uses (30_encoding.md R71, R72). -/

namespace Sys2Proof

/-- The twelve commands (R72). Operand bytes a command does not use are no part of the term
(R74: they are ignored), and a one-bit operand is a `Bool` (R71). -/
inductive Instr
  /-- `NOP` (46_control.md R270). -/
  | nop
  /-- `CRC_INIT` (40_crc.md R113). -/
  | crcInit
  /-- `CRC_BYTE b` (R114). -/
  | crcByte (b : Byte)
  /-- `TXB_CLEAR` (43_transmit.md R180). -/
  | txbClear
  /-- `TXB_PUSH b` (R181). -/
  | txbPush (b : Byte)
  /-- `SEND type, ver, flags` (R182). -/
  | send (ptype ver flags : Byte)
  /-- `RECEIVE` (44_receive.md R210). -/
  | receive
  /-- `TRK_ALLOC` (45_tracker.md R246). -/
  | trkAlloc
  /-- `TRK_MARK id, pend, fail` (R247). -/
  | trkMark (m : Byte) (pend fail : Bool)
  /-- `TRK_QPEND id` (R248). -/
  | trkQpend (m : Byte)
  /-- `TRK_QFAIL id` (R249). -/
  | trkQfail (m : Byte)
  /-- `REG_READ idx` (46_control.md R271). -/
  | regRead (idx : Byte)
  deriving DecidableEq, Repr

end Sys2Proof
end

