-- ==== Sys2Proof/Decode.lean ====
section
/-! DEFINITION. The command word (30_encoding.md R70 to R74): a decoder, total on every 32-bit word and
rejecting a reserved opcode by name, and after it the encoder. -/

namespace Sys2Proof

/-- The defined opcodes of R72, by name. -/
inductive Opcode
  | nop | crcInit | crcByte | txbClear | txbPush | send | receive
  | trkAlloc | trkMark | trkQpend | trkQfail | regRead
  deriving DecidableEq, Repr

/-- The `OP` value of each opcode (R72). -/
def Opcode.byte : Opcode → Byte
  | .nop => 0x00
  | .crcInit => 0x01
  | .crcByte => 0x02
  | .txbClear => 0x10
  | .txbPush => 0x11
  | .send => 0x20
  | .receive => 0x21
  | .trkAlloc => 0x30
  | .trkMark => 0x31
  | .trkQpend => 0x32
  | .trkQfail => 0x33
  | .regRead => 0x40

/-- The rows of R72, in the table's order. -/
def Opcode.all : List Opcode :=
  [.nop, .crcInit, .crcByte, .txbClear, .txbPush, .send, .receive,
   .trkAlloc, .trkMark, .trkQpend, .trkQfail, .regRead]

/-- The opcode an `OP` value selects; none for the 244 reserved values of R73. -/
def Opcode.ofByte? (op : Byte) : Option Opcode :=
  Opcode.all.find? (fun o => o.byte == op)

/-- Bits `[31:24]`, the field `OP` (R70). -/
def opField (w : Word) : Byte := w.extractLsb' 24 8

/-- Bits `[23:16]`, the operand byte `A` (R70). -/
def aField (w : Word) : Byte := w.extractLsb' 16 8

/-- Bits `[15:8]`, the operand byte `B` (R70). -/
def bField (w : Word) : Byte := w.extractLsb' 8 8

/-- Bits `[7:0]`, the operand byte `C` (R70). -/
def cField (w : Word) : Byte := w.extractLsb' 0 8

/-- A one-bit operand is bit 0 of its byte only (R71). -/
def bitOperand (b : Byte) : Bool := b.getLsbD 0

/-- What a command word decodes to. -/
inductive Decoded
  /-- A defined command. -/
  | instr (i : Instr)
  /-- A reserved opcode (R73): the word completes with `BAD_COMMAND`. -/
  | reserved (op : Byte)
  deriving DecidableEq, Repr

/-- The command an opcode stands for, with the operand bytes of the word (R71, R72). -/
def Opcode.command (o : Opcode) (a b c : Byte) : Instr :=
  match o with
  | .nop => .nop
  | .crcInit => .crcInit
  | .crcByte => .crcByte a
  | .txbClear => .txbClear
  | .txbPush => .txbPush a
  | .send => .send a b c
  | .receive => .receive
  | .trkAlloc => .trkAlloc
  | .trkMark => .trkMark a (bitOperand b) (bitOperand c)
  | .trkQpend => .trkQpend a
  | .trkQfail => .trkQfail a
  | .regRead => .regRead a

/-- R72: "A decoder selects the command by `OP` alone". -/
def decode (w : Word) : Decoded :=
  match Opcode.ofByte? (opField w) with
  | some o => .instr (o.command (aField w) (bField w) (cField w))
  | none => .reserved (opField w)

/-- The opcode a command has in R72. -/
def Instr.opcode : Instr → Opcode
  | .nop => .nop
  | .crcInit => .crcInit
  | .crcByte _ => .crcByte
  | .txbClear => .txbClear
  | .txbPush _ => .txbPush
  | .send _ _ _ => .send
  | .receive => .receive
  | .trkAlloc => .trkAlloc
  | .trkMark _ _ _ => .trkMark
  | .trkQpend _ => .trkQpend
  | .trkQfail _ => .trkQfail
  | .regRead _ => .regRead

/-- A one-bit operand written as its byte, bits 7..1 zero (R74). -/
def operandByte (b : Bool) : Byte := if b then 0x01 else 0x00

/-- The operand bytes `A`, `B`, `C` of a command, unused bytes zero (R74, R82). -/
def Instr.operandBytes : Instr → Byte × Byte × Byte
  | .nop => (0, 0, 0)
  | .crcInit => (0, 0, 0)
  | .crcByte b => (b, 0, 0)
  | .txbClear => (0, 0, 0)
  | .txbPush b => (b, 0, 0)
  | .send ptype ver flags => (ptype, ver, flags)
  | .receive => (0, 0, 0)
  | .trkAlloc => (0, 0, 0)
  | .trkMark m pend fail => (m, operandByte pend, operandByte fail)
  | .trkQpend m => (m, 0, 0)
  | .trkQfail m => (m, 0, 0)
  | .regRead idx => (idx, 0, 0)

/-- The command word with the four fields of R70. -/
def packWord (op a b c : Byte) : Word := op ++ a ++ b ++ c

/-- The encoder: the word of a command, reserved operand bits zero. -/
def encode (i : Instr) : Word :=
  packWord i.opcode.byte i.operandBytes.1 i.operandBytes.2.1 i.operandBytes.2.2

/-- The bits of the word a command reads: `OP` and its own operands (R72, R74). Every other bit is
reserved-should-be-zero and ignored. -/
def Opcode.usedBits : Opcode → Word
  | .nop => 0xFF000000
  | .crcInit => 0xFF000000
  | .crcByte => 0xFFFF0000
  | .txbClear => 0xFF000000
  | .txbPush => 0xFFFF0000
  | .send => 0xFFFFFFFF
  | .receive => 0xFF000000
  | .trkAlloc => 0xFF000000
  | .trkMark => 0xFFFF0101
  | .trkQpend => 0xFFFF0000
  | .trkQfail => 0xFFFF0000
  | .regRead => 0xFFFF0000

/-- The command word a table row's number stands for: its low `nbits` bits, the bits above zero. A
command word is one 32-bit number of the port (R70), so there is no byte order to choose (R52; log entry 13). -/
def tableWord (nbits w : Nat) : Word := BitVec.ofNat 32 (w % 2 ^ nbits)

/-- What the decoder reads from a word numbered as spec/opcode_table.json numbers it. -/
def decodeTableWord (nbits w : Nat) : Option Instr :=
  match decode (tableWord nbits w) with
  | .instr i => some i
  | .reserved _ => none

end Sys2Proof
end

