-- ==== Sys2Proof/Config.lean ====
section
/-! DEFINITION. The parameters of the block (00_scope.md R9), fixed at construction: no command and no
reset changes them (10_state.md R21, 70_reset_and_hazards.md R332). -/

namespace Sys2Proof

/-- The window width `W`, `32` or `64` (R9; log entry 3). -/
inductive Window
  | w32
  | w64
  deriving DecidableEq, Repr

/-- `W` as a number. -/
def Window.width : Window → Nat
  | .w32 => 32
  | .w64 => 64

/-- The window width a caller's number names; R9 refuses every number but 32 and 64. -/
def Window.ofNat? : Nat → Option Window
  | 32 => some .w32
  | 64 => some .w64
  | _ => none

/-- The parameters of R9, with the defaults R9 gives for the marker and for `W`. -/
structure Config where
  /-- `PROTO_VERSION`: open, the caller's. -/
  protoVersion : Byte
  /-- `MAX_ATTEMPTS`: open, the caller's, `1 <= MAX_ATTEMPTS <= 2^64 - 1` (`Config.wf`). -/
  maxAttempts : Nat
  /-- `SYNC0`, the first marker byte. -/
  sync0 : Byte := 0x0F
  /-- `SYNC1`, the second marker byte. -/
  sync1 : Byte := 0x0A
  /-- `W`. -/
  w : Window := .w32
  deriving DecidableEq, Repr

/-- R9's bound on `MAX_ATTEMPTS`: for a configuration outside it "the model has no block". -/
def Config.wf (c : Config) : Bool :=
  decide (1 ≤ c.maxAttempts) && decide (c.maxAttempts < 2 ^ 64)

/-- R9: the block a caller's numbers configure, or none where R9 refuses them. -/
def Config.build? (protoVersion : Byte) (maxAttempts : Nat) (sync0 sync1 : Byte) (w : Nat) :
    Option Config :=
  match Window.ofNat? w with
  | none => none
  | some win =>
    let c : Config :=
      { protoVersion := protoVersion, maxAttempts := maxAttempts, sync0 := sync0, sync1 := sync1, w := win }
    if c.wf then some c else none

/-- The default configuration of 95_test_vectors.md section 0 (`PROTO_VERSION = 0x01`,
`MAX_ATTEMPTS = 3`, default marker, `W = 32`). R9 leaves the first two open: DESIGN CHOICE, log entry 1. -/
def Config.vectors : Config := { protoVersion := 0x01, maxAttempts := 3 }

end Sys2Proof
end

