-- ==== Sys2Proof/Machine/State.lean ====
section
/-! DEFINITION. The state of the block (10_state.md) and of the agents it talks to, as plain data; the
reasons a step can stop; the state after reset (70_reset_and_hazards.md R330). -/

namespace Sys2Proof.Machine

/-- The answer of `CHAN` to one read request (20_memory.md R55). -/
inductive RxAnswer
  /-- `Byte(b)`: the next byte of the receive stream, removed from it. -/
  | byte (b : Byte)
  /-- `ChanErr`: nothing is removed from the receive stream. -/
  | err
  deriving DecidableEq, Repr

/-- The answer of `CHAN` to one write request (R56). -/
inductive WrAnswer
  /-- `Ok`: all of the request is appended to the transmit stream. -/
  | ok
  /-- `ChanErr`: the first `k` bytes of the request are appended (all of it when `k` is no less than its length). -/
  | err (k : Nat)
  deriving DecidableEq, Repr

/-- The answer of `HANDLER` to one request (44_receive.md R218). -/
inductive HdAnswer
  | ok
  | fail
  deriving DecidableEq, Repr

/-- An external request of the block (10_state.md R33, 20_memory.md R61). -/
inductive Request
  /-- A read request: one byte (R54). -/
  | read
  /-- A write request carrying these bytes (R56). -/
  | write (bytes : List Byte)
  /-- `Create(pv, t, v, f)` (R218). -/
  | create (pv ptype ver flags : Byte)
  /-- `Process(P)`, `none` where the payload is absent (R218). -/
  | process (payload : Option (List Byte))
  deriving DecidableEq, Repr

/-- The agent `CHAN` (00_scope.md R11, 10_state.md R36). Its answers are draws the block does not
constrain: `rx` and `wr` hold the answers it has ready, in order; while a list is empty a request of the
block is unanswered, until a step of `CHAN` (`ChanMove`) answers it (log entry 4). -/
structure Chan where
  /-- The answers ready for the coming read requests; its bytes are the receive stream of R36. -/
  rx : List RxAnswer
  /-- The answers ready for the coming write requests. -/
  wr : List WrAnswer
  /-- The transmit stream: the bytes `CHAN` has accepted, first byte first (R36). -/
  tx : List Byte
  deriving DecidableEq, Repr

/-- The agent `HANDLER` (00_scope.md R11): the answers it has ready, in order (log entry 4). -/
structure Handler where
  answers : List HdAnswer
  deriving DecidableEq, Repr

/-- What the host reads of a completed command: `STATUS` and `RESULT` (60_exceptions.md R309). What it reads where no
completion is new is the model's choice (DESIGN CHOICE, log entry 14). -/
structure Completion where
  status : BitVec 4
  result : Long
  deriving DecidableEq, Repr

/-- The agent `HOST` (00_scope.md R11). -/
structure HostSide where
  /-- The command words offered on the port and not yet accepted, in the host's order (10_state.md R26, R31). -/
  port : List Word
  /-- The completions the host has read, one entry a reading, oldest first (R11, R309; log entry 14). -/
  completions : List Completion
  deriving DecidableEq, Repr

/-- A step of `HOST` (R11). -/
inductive HostMove
  /-- It offers a command word on the port (10_state.md R26). -/
  | offer (w : Word)
  /-- It reads the completion of the last command; nothing to read while `BUSY` is 1 (R309; log entry 14). -/
  | readCompletion
  /-- It applies reset (70_reset_and_hazards.md R331). -/
  | reset
  deriving DecidableEq, Repr

/-- A step of `CHAN` (R11): it makes its next answer ready (20_memory.md R55, R56). -/
inductive ChanMove
  | answerRead (a : RxAnswer)
  | answerWrite (a : WrAnswer)
  deriving DecidableEq, Repr

/-- Whose step is taken: each of the four agents of R11 has its own. -/
inductive Turn
  | block
  | host (m : HostMove)
  | chan (m : ChanMove)
  /-- `HANDLER` makes its next answer ready (44_receive.md R218). -/
  | handler (a : HdAnswer)
  deriving DecidableEq, Repr

/-- The nine header bytes of a frame, by name (30_encoding.md R75, R76). -/
structure Header where
  pv : Byte
  mid : Byte
  ptype : Byte
  ver : Byte
  flags : Byte
  lenLo : Byte
  lenHi : Byte
  pcsLo : Byte
  pcsHi : Byte
  deriving DecidableEq, Repr

/-- The synchronizer during a receive cycle (10_state.md R34): its phase, with what it holds in that
phase. `crc` is its private CRC working register. -/
inductive Sync
  /-- `SCAN`, with the marker window `prev`. -/
  | scan (prev : Option Byte)
  /-- `HEADER`, with the header bytes read so far. -/
  | header (h : List Byte) (crc : Half)
  /-- `HCS`, with the header-checksum bytes read so far; with both, the header check is due. -/
  | hcs (h : List Byte) (c : List Byte) (crc : Half)
  /-- `PAYLOAD`, with the payload bytes read so far; with all of them, the payload check is due. -/
  | payload (h : Header) (p : List Byte) (crc : Half)
  deriving DecidableEq, Repr

/-- A receive cycle in flight: the synchronizer, then the dispatch phases of R33. -/
inductive RxCycle
  | sync (y : Sync)
  /-- `DISPATCH_CREATE`: a normal frame and its payload (`none` where absent). -/
  | create (h : Header) (p : Option (List Byte))
  /-- `DISPATCH_PROCESS`. -/
  | process (h : Header) (p : Option (List Byte))
  /-- `ACK_WRITE`: the frame to acknowledge, and whether creation or processing failed. -/
  | ackWrite (h : Header) (failed : Bool)
  deriving DecidableEq, Repr

/-- What a `SEND` holds while in flight (R35): the allocated id and the frame built once. -/
structure SendFrame where
  mid : Byte
  head : List Byte
  payload : List Byte
  deriving DecidableEq, Repr

/-- The two channel writes of a frame write (20_memory.md R57). -/
inductive WritePhase
  /-- `WRITE_HEAD`. -/
  | head
  /-- `WRITE_PAYLOAD`. -/
  | payload
  deriving DecidableEq, Repr

/-- The phases of a `SEND` with `ACK_REQ` after its allocation (R33). -/
inductive SendPhase
  | write (p : WritePhase)
  /-- `WAIT_QUERY`. -/
  | waitQuery
  /-- `WAIT_RECEIVE`, with the receive cycle it runs. -/
  | waitReceive (c : RxCycle)
  /-- `RESOLVE`. -/
  | resolve
  deriving DecidableEq, Repr

/-- The command in flight and its hidden state (R33 to R35; log entry 7). The commands that complete in
one step have no phase. -/
inductive Flight
  /-- `ALLOC` of a `SEND`: accepted, with the payload it took (43_transmit.md R183), before its id is allocated. -/
  | sendAlloc (ptype ver flags : Byte) (payload : List Byte)
  /-- A `SEND` without `ACK_REQ` (43_transmit.md R184): one frame write. -/
  | sendOnce (f : SendFrame) (p : WritePhase)
  /-- A `SEND` with `ACK_REQ`, in its `attempt`-th attempt (R185, R35). -/
  | sendAcked (f : SendFrame) (attempt : Nat) (p : SendPhase)
  /-- A `RECEIVE` (44_receive.md R210). -/
  | receive (c : RxCycle)
  deriving DecidableEq, Repr

/-- The machine: the block's parameters, its architectural state (10_state.md R20), the hidden state of
the command in flight (R33 to R35), the other agents (R11, R36), whose step comes next, and the record of
the requests made. -/
structure State where
  /-- The parameters of 00_scope.md R9: fixed, written by no step (R21). -/
  cfg : Config
  /-- `CRC`, the standalone CRC register (R22). -/
  crc : Half
  /-- `TXB`, the transmit payload buffer, first pushed byte first (R23). -/
  txb : List Byte
  /-- `TRK_COUNTER` (R27). -/
  trkCounter : Byte
  /-- `TRK_PENDING` (R28): its `W` bits are bits `W-1..0`, the bits above are 0 (log entry 3). -/
  trkPending : Long
  /-- `TRK_FAILED` (R29), held as `TRK_PENDING` is. -/
  trkFailed : Long
  /-- `STATUS` (R24). -/
  status : BitVec 4
  /-- `RESULT` (R25). -/
  result : Long
  /-- `BUSY` (R26). -/
  busy : Bool
  /-- The command in flight (R33 to R35); none while the block is idle. -/
  flight : Option Flight
  /-- The agent `CHAN`. -/
  chan : Chan
  /-- The agent `HANDLER`. -/
  handler : Handler
  /-- The agent `HOST`. -/
  host : HostSide
  /-- Whose steps come next, first to last; when none is listed, the block's (log entry 11). -/
  turns : List Turn
  /-- The external requests that have been answered, oldest first: the block's observable behaviour
  (R33). Nothing reads it (log entry 6). -/
  requests : List Request
  deriving DecidableEq, Repr

/-- Why the block stops with a fault: never. The block has no traps (60_exceptions.md R312: an error
completes the command), so this type has no constructor. -/
inductive Fault
  deriving DecidableEq, Repr

/-- Why a step has no meaning. -/
inductive Refusal
  /-- Raised by `exec` for a command without a meaning; no command is left without one. Safe. -/
  | notModelled (mnemonic : String)
  /-- Raised by `step` for a configuration R9 refuses ("the model has no block for it"). Safe. -/
  | noBlock
  deriving DecidableEq, Repr

/-- R330: the block after reset, under a configuration; the agents have no answer and no command yet. -/
def State.resetWith (cfg : Config) : State :=
  { cfg := cfg
    crc := 0x0000
    txb := []
    trkCounter := 0x00
    trkPending := 0
    trkFailed := 0
    status := 0
    result := 0
    busy := false
    flight := none
    chan := { rx := [], wr := [], tx := [] }
    handler := { answers := [] }
    host := { port := [], completions := [] }
    turns := []
    requests := [] }

/-- The machine right after reset, in the default configuration (log entry 1). -/
def State.reset : State := State.resetWith Config.vectors

end Sys2Proof.Machine
end

