-- ==== Sys2Proof/Machine/Flags.lean ====
section
/-! DEFINITION. The flag helpers of 41_bitbyte.md (R130, R131, R135), the flag bits of a frame
(10_state.md R32) and the status codes (60_exceptions.md R300). The block has no condition codes. -/

namespace Sys2Proof.Machine

/-- R130: `flagGet(f, n)`, the bit `f[n]` as `0` or `1`. -/
def flagGet (f : Byte) (n : Nat) : BitVec 1 := f.extractLsb' n 1

/-- R131: `flagSet(f, n, v)`, `(f AND NOT (1 << n)) OR (v << n)`. -/
def flagSet (f : Byte) (n : Nat) (v : BitVec 1) : Byte :=
  (f &&& ~~~((1 : Byte) <<< n)) ||| (v.zeroExtend 8 <<< n)

/-- R135: `flagTest(f, n)`, the Boolean `flagGet(f, n) = 1`. -/
def flagTest (f : Byte) (n : Nat) : Bool := flagGet f n == 1

/-- A Boolean as a one-bit value. -/
def bit (b : Bool) : BitVec 1 := BitVec.ofBool b

/-- `ACK_REQ`, bit 0 of a flags byte (R32, R79). -/
def ackRequested (flags : Byte) : Bool := flagTest flags 0

/-- `FAIL`, bit 1 of an ack frame's flags byte (R32, R79). -/
def failFlag (flags : Byte) : Bool := flagTest flags 1

/-- The status codes (R300). -/
inductive Status
  | ok
  | channelError
  | timeout
  | packetFailure
  | processingError
  | badCommand
  | txbFull
  deriving DecidableEq, Repr

/-- The number written to `STATUS` for each code (R300). -/
def Status.code : Status → BitVec 4
  | .ok => 0
  | .channelError => 1
  | .timeout => 2
  | .packetFailure => 3
  | .processingError => 4
  | .badCommand => 5
  | .txbFull => 6

end Sys2Proof.Machine
end

