-- ==== Sys2Proof/Machine/Operands.lean ====
section
/-! DEFINITION. Byte extraction and 16-bit reconstruction (41_bitbyte.md R132 to R134), the widening to
`RESULT`, and the index operand of `REG_READ` (46_control.md R272). The operand bytes of the command word
itself are taken apart once, in Sys2Proof/Decode.lean (30_encoding.md R71). -/

namespace Sys2Proof.Machine

/-- R132: `lo8(v) = v[7:0]`. -/
def lo8 (v : Half) : Byte := v.extractLsb' 0 8

/-- R133: `hi8(v) = v[15:8]`. -/
def hi8 (v : Half) : Byte := v.extractLsb' 8 8

/-- R134: `join16(lo, hi) = zext_16(hi) << 8 OR zext_16(lo)`. -/
def join16 (lo hi : Byte) : Half := (hi.zeroExtend 16 <<< 8) ||| lo.zeroExtend 16

/-- `zext_64` of a byte (00_scope.md R12). -/
def zext64Byte (b : Byte) : Long := b.zeroExtend 64

/-- `zext_64` of a 16-bit value. -/
def zext64Half (v : Half) : Long := v.zeroExtend 64

/-- `zext_64` of a one-bit query answer. -/
def zext64Bit (b : Bool) : Long := (bit b).zeroExtend 64

/-- A length or parameter as a 64-bit number. -/
def long (n : Nat) : Long := BitVec.ofNat 64 n

/-- R272: `value(idx)`, or none for the undefined indices `0x09..0xFF`. -/
def regValue (idx : Byte) (s : State) : Option Long :=
  match idx.toNat with
  | 0 => some (zext64Half s.crc)
  | 1 => some (zext64Byte s.trkCounter)
  | 2 => some s.trkPending
  | 3 => some s.trkFailed
  | 4 => some (long s.txb.length)
  | 5 => some (zext64Byte s.cfg.protoVersion)
  | 6 => some (long s.cfg.w.width)
  | 7 => some (long s.cfg.maxAttempts)
  | 8 => some (zext64Half (join16 s.cfg.sync0 s.cfg.sync1))
  | _ => none

end Sys2Proof.Machine
end

