-- ==== Sys2Proof/Machine/Checksum.lean ====
section
/-! DEFINITION. The checksum algorithm (40_crc.md R110 to R112). -/

namespace Sys2Proof.Machine

/-- The polynomial constant (00_scope.md R10, R110). -/
def crcPoly : Half := 0xA001

/-- One of the 8 iterations of R111: shift right, and XOR the polynomial when the bit shifted out is 1. -/
def crcShift (c : Half) : Half :=
  if c.getLsbD 0 then (c >>> 1) ^^^ crcPoly else c >>> 1

/-- `n` iterations of R111. -/
def crcShifts : Nat → Half → Half
  | 0, c => c
  | n + 1, c => crcShifts n (crcShift c)

/-- R111: `crc_step(c, b)`; the byte enters the low byte of the register, then 8 iterations. -/
def crcStep (c : Half) (b : Byte) : Half := crcShifts 8 (c ^^^ b.zeroExtend 16)

/-- The register after the bytes of a list, from a starting value. -/
def crcFrom (c : Half) : List Byte → Half
  | [] => c
  | b :: bs => crcFrom (crcStep c b) bs

/-- R112: `crc16(L)`, the fold of `crc_step` from `0x0000`. -/
def crc16 (bytes : List Byte) : Half := crcFrom 0x0000 bytes

end Sys2Proof.Machine
end

