-- ==== Sys2Proof/Machine/Codec.lean ====
section
/-! DEFINITION. The frame codec (42_frame_codec.md): the framer, the synchronizer one byte or one check at a time, and
the decoding procedure of R152 over a whole sequence of read answers, which the claims compare it with. -/

namespace Sys2Proof.Machine

/-- R150: the nine header bytes of a frame, in wire order (30_encoding.md R75). -/
def encodeHeader (pv mid ptype ver flags : Byte) (payload : List Byte) : List Byte :=
  let len : Half := BitVec.ofNat 16 payload.length
  let pcs := crc16 payload
  [pv, mid, ptype, ver, flags, lo8 len, hi8 len, lo8 pcs, hi8 pcs]

/-- R150: marker, header and header checksum, 13 bytes. -/
def encodeHead (cfg : Config) (pv mid ptype ver flags : Byte) (payload : List Byte) : List Byte :=
  let h := encodeHeader pv mid ptype ver flags payload
  let hcs := crc16 h
  [cfg.sync0, cfg.sync1] ++ h ++ [lo8 hcs, hi8 hcs]

/-- R150, R75: the bytes of a frame on the wire, `head ++ P`. -/
def frameBytes (cfg : Config) (pv mid ptype ver flags : Byte) (payload : List Byte) : List Byte :=
  encodeHead cfg pv mid ptype ver flags payload ++ payload

/-- 30_encoding.md R80, 44_receive.md R211: the 13-byte ack response for message id `m`. -/
def ackFrame (cfg : Config) (m : Byte) (failed : Bool) : List Byte :=
  encodeHead cfg cfg.protoVersion m 0x00 0x01 (flagSet 0x00 1 (bit failed)) []

/-- The header a list of nine bytes holds (R75). A shorter list does not occur (`Sync.wf`). -/
def headerOf (h : List Byte) : Header :=
  { pv := h.getD 0 0
    mid := h.getD 1 0
    ptype := h.getD 2 0
    ver := h.getD 3 0
    flags := h.getD 4 0
    lenLo := h.getD 5 0
    lenHi := h.getD 6 0
    pcsLo := h.getD 7 0
    pcsHi := h.getD 8 0 }

/-- R77: `len = join16(h[5], h[6])`. -/
def headerLen (h : Header) : Half := join16 h.lenLo h.lenHi

/-- R157: `pcs = join16(h[7], h[8])`. -/
def headerPcs (h : Header) : Half := join16 h.pcsLo h.pcsHi

/-- R152: what decoding a frame gives. A header-checksum mismatch gives nothing: it rescans. -/
inductive FrameResult
  /-- `Frame(h, P)`, the payload `none` where it is absent. -/
  | frame (h : Header) (p : Option (List Byte))
  /-- `PayloadBad(h)`. -/
  | payloadBad (h : Header)
  deriving DecidableEq, Repr

/-- What a check of the synchronizer does. -/
inductive SyncStep
  | more (y : Sync)
  | done (r : FrameResult)
  deriving DecidableEq, Repr

/-- R153: a fresh scan starts with an empty marker window. -/
def freshScan : Sync := .scan none

/-- R153: `SCAN`. -/
def scanByte (cfg : Config) (prev : Option Byte) (b : Byte) : Sync :=
  if prev = some cfg.sync0 ∧ b = cfg.sync1 then .header [] 0x0000 else .scan (some b)

/-- R154: `HEADER`. -/
def headerByte (h : List Byte) (crc : Half) (b : Byte) : Sync :=
  if (h ++ [b]).length < 9 then .header (h ++ [b]) (crcStep crc b) else .hcs (h ++ [b]) [] (crcStep crc b)

/-- R152 to R155, R157: the synchronizer stores one byte. -/
def syncByte (cfg : Config) (y : Sync) (b : Byte) : Sync :=
  match y with
  | .scan prev => scanByte cfg prev b
  | .header h crc => headerByte h crc b
  | .hcs h c crc => .hcs h (c ++ [b]) crc
  | .payload h p crc => .payload h (p ++ [b]) (crcStep crc b)

/-- R156, R157: the header check, on the two checksum bytes `c[0]`, `c[1]`. -/
def headerCheck (h : List Byte) (lo hi : Byte) (crc : Half) : SyncStep :=
  if join16 lo hi = crc then
    if headerLen (headerOf h) = 0 then .done (.frame (headerOf h) none)
    else .more (.payload (headerOf h) [] 0x0000)
  else .more freshScan

/-- R157: the payload check. -/
def payloadCheck (h : Header) (p : List Byte) (crc : Half) : SyncStep :=
  if crc = headerPcs h then .done (.frame h (some p)) else .done (.payloadBad h)

/-- R152: the check that is due once all bytes of its phase are read; none while a byte is to be read. -/
def syncCheck (y : Sync) : Option SyncStep :=
  match y with
  | .scan _ => none
  | .header _ _ => none
  | .hcs h c crc =>
    match c with
    | lo :: hi :: _ => some (headerCheck h lo hi crc)
    | _ => none
  | .payload h p crc => if p.length < (headerLen h).toNat then none else some (payloadCheck h p crc)

/-- What a procedure that reads from `CHAN` gives, with the answers left over. -/
inductive Reading (α : Type)
  | got (a : α) (rest : List RxAnswer)
  /-- A read answered `ChanErr`. -/
  | chanErr (rest : List RxAnswer)
  /-- `CHAN` gives no further answer: the procedure holds (20_memory.md R55). -/
  | hold
  deriving DecidableEq, Repr

/-- The check that is due, made; after it a byte is to be read, or decoding has ended. -/
def syncSettle (y : Sync) : SyncStep := (syncCheck y).getD (.more y)

/-- The synchronizer driven by a sequence of read answers. -/
def syncRun (cfg : Config) (y : Sync) : List RxAnswer → Reading FrameResult
  | [] =>
    match syncSettle y with
    | .done r => .got r []
    | .more _ => .hold
  | a :: rest =>
    match syncSettle y, a with
    | .done r, _ => .got r (a :: rest)
    | .more _, .err => .chanErr rest
    | .more y', .byte b => syncRun cfg (syncByte cfg y' b) rest

/-- R54: `read(count)` as `count` one-byte reads. -/
def readBytes : Nat → List RxAnswer → Reading (List Byte)
  | 0, rx => .got [] rx
  | _ + 1, [] => .hold
  | _ + 1, .err :: rx => .chanErr rx
  | n + 1, .byte b :: rx =>
    match readBytes n rx with
    | .got bs rest => .got (b :: bs) rest
    | .chanErr rest => .chanErr rest
    | .hold => .hold

/-- The `SCAN` loop of R152: read up to and including the marker. -/
def scanMarker (cfg : Config) (prev : Option Byte) : List RxAnswer → Reading Unit
  | [] => .hold
  | .err :: rest => .chanErr rest
  | .byte b :: rest =>
    if prev = some cfg.sync0 ∧ b = cfg.sync1 then .got () rest else scanMarker cfg (some b) rest

/-- R157: the payload part of R152, once the header checksum has matched. -/
def readPayload (h : Header) (rx : List RxAnswer) : Reading FrameResult :=
  if headerLen h = 0 then .got (.frame h none) rx
  else
    match readBytes (headerLen h).toNat rx with
    | .hold => .hold
    | .chanErr rest => .chanErr rest
    | .got p rest => if crc16 p = headerPcs h then .got (.frame h (some p)) rest else .got (.payloadBad h) rest

/-- R152: `receiveFrame()` as the rule writes it, phase after phase, over a sequence of read answers;
`fuel` bounds the rescans and is never short when it exceeds the number of answers. -/
def receiveFrame (cfg : Config) : Nat → List RxAnswer → Reading FrameResult
  | 0, _ => .hold
  | fuel + 1, rx =>
    match scanMarker cfg none rx with
    | .hold => .hold
    | .chanErr rest => .chanErr rest
    | .got _ afterMarker =>
      match readBytes 9 afterMarker with
      | .hold => .hold
      | .chanErr rest => .chanErr rest
      | .got h afterHeader =>
        match readBytes 2 afterHeader with
        | .hold => .hold
        | .chanErr rest => .chanErr rest
        | .got c afterHcs =>
          if join16 (c.getD 0 0) (c.getD 1 0) = crc16 h then readPayload (headerOf h) afterHcs
          else receiveFrame cfg fuel afterHcs

end Sys2Proof.Machine
end

