-- ==== Sys2Proof/Machine/Ops.lean ====
section
/-! DEFINITION. The operations the meanings share: completing a command (which is also how an error is
taken), starting one that stays in flight, the port and reset, the requests to `CHAN` and `HANDLER`, the
operations of the acknowledgement-window tracker, and the transmit payload buffer. -/

namespace Sys2Proof.Machine

/-- `complete(s, r)` and `raise E` (00_scope.md R13, 60_exceptions.md R312): `STATUS <- s`,
`RESULT <- r`, `BUSY <- 0`, and the hidden state is discarded; nothing is rolled back. This is all there
is to taking an error: no saved pc, no vector, no mode (R312), and no command returns from it (R313). -/
def State.complete (s : State) (st : Status) (r : Long) : State :=
  { s with status := st.code, result := r, busy := false, flight := none }

/-- A command stays in flight, `BUSY` 1 (10_state.md R26), with this hidden state (R33). -/
def State.inFlight (s : State) (f : Flight) : State :=
  { s with busy := true, flight := some f }

/-- 70_reset_and_hazards.md R330, R331, R332: the block's state becomes that of reset. The parameters,
what `CHAN` and `HANDLER` hold, the commands still offered, and the record of requests stay. -/
def State.blockReset (s : State) : State :=
  { s with
    crc := 0x0000
    txb := []
    trkCounter := 0x00
    trkPending := 0
    trkFailed := 0
    status := 0
    result := 0
    busy := false
    flight := none }

/-- Whose step comes next (log entry 11). -/
def State.nextTurn (s : State) : Turn :=
  match s.turns with
  | [] => .block
  | a :: _ => a

/-- The turn that is taken is no longer to come. -/
def State.passTurn (s : State) : State := { s with turns := s.turns.tail }

/-- 10_state.md R26, R31: the command at the head of the port, and the state with it accepted. -/
def State.offered (s : State) : Option (Word × State) :=
  match s.host.port with
  | [] => none
  | w :: rest => some (w, { s with host := { s.host with port := rest } })

/-- A request is answered: it joins the record of requests (log entry 6). -/
def State.record (s : State) (r : Request) : State := { s with requests := s.requests ++ [r] }

/-- 20_memory.md R55: `ChanRead()`. None while `CHAN` has not answered: the block holds. -/
def chanRead (s : State) : Option (RxAnswer × State) :=
  match s.chan.rx with
  | [] => none
  | a :: rest => some (a, { s with chan := { s.chan with rx := rest } }.record .read)

/-- The bytes of a write request that reach the transmit stream (R56). -/
def accepted (a : WrAnswer) (bytes : List Byte) : List Byte :=
  match a with
  | .ok => bytes
  | .err k => bytes.take k

/-- R56: `ChanWrite(L)` for `L` not empty (no request is made for an empty one: R57, and the head of a
frame has 13 bytes). None while `CHAN` has not answered: the block holds. -/
def chanWrite (bytes : List Byte) (s : State) : Option (WrAnswer × State) :=
  match s.chan.wr with
  | [] => none
  | a :: rest =>
    some (a, { s with chan := { s.chan with wr := rest, tx := s.chan.tx ++ accepted a bytes } }.record (.write bytes))

/-- 44_receive.md R218: a request to `HANDLER`. None while it has not answered: the block holds. -/
def handlerAsk (r : Request) (s : State) : Option (HdAnswer × State) :=
  match s.handler.answers with
  | [] => none
  | a :: rest => some (a, { s with handler := { s.handler with answers := rest } }.record r)

/-- The `W` bits of a tracker mask, in 64 (log entry 3). -/
def windowMask : Window → Long
  | .w32 => 0x00000000FFFFFFFF
  | .w64 => 0xFFFFFFFFFFFFFFFF

/-- A left shift by 1 truncated to `W` bits: old bit `W-1` is lost (45_tracker.md R242). -/
def shiftMask (w : Window) (v : Long) : Long := (v <<< 1) &&& windowMask w

/-- A mask with bit `p` replaced. -/
def setMaskBit (v : Long) (p : Nat) (b : Bool) : Long :=
  (v &&& ~~~((1 : Long) <<< p)) ||| (zext64Bit b <<< p)

/-- R241: `dist(m) = (TRK_COUNTER - m) mod 256`. -/
def State.dist (s : State) (m : Byte) : Nat := (s.trkCounter - m).toNat

/-- R241: `inWindow(m)`, `1 <= dist(m) <= W`. -/
def State.inWindow (s : State) (m : Byte) : Bool :=
  decide (1 ≤ s.dist m) && decide (s.dist m ≤ s.cfg.w.width)

/-- R241: `pos(m) = dist(m) - 1`. -/
def State.pos (s : State) (m : Byte) : Nat := s.dist m - 1

/-- R242: `trkAlloc()`: the id returned is `TRK_COUNTER` before the step. -/
def State.allocId (s : State) : State :=
  { s with
    trkCounter := s.trkCounter + 1
    trkPending := shiftMask s.cfg.w s.trkPending ||| 1
    trkFailed := shiftMask s.cfg.w s.trkFailed }

/-- R243: `trkMark(m, p, f)`, ignored for an id outside the window. -/
def State.markId (s : State) (m : Byte) (p f : Bool) : State :=
  if s.inWindow m then
    { s with trkPending := setMaskBit s.trkPending (s.pos m) p, trkFailed := setMaskBit s.trkFailed (s.pos m) f }
  else s

/-- The answer of a tracker query (R244, R245). -/
inductive QueryAnswer
  | bit (b : Bool)
  | outOfWindow
  deriving DecidableEq, Repr

/-- R244: `trkQueryPending(m)`. -/
def State.queryPending (s : State) (m : Byte) : QueryAnswer :=
  if s.inWindow m then .bit (s.trkPending.getLsbD (s.pos m)) else .outOfWindow

/-- R245: `trkQueryFailed(m)`. -/
def State.queryFailed (s : State) (m : Byte) : QueryAnswer :=
  if s.inWindow m then .bit (s.trkFailed.getLsbD (s.pos m)) else .outOfWindow

/-- The capacity of `TXB` (10_state.md R23). -/
def txbCapacity : Nat := 65535

/-- 10_state.md R23: the payload buffer takes a new content. -/
def State.setTxb (s : State) (bytes : List Byte) : State := { s with txb := bytes }

end Sys2Proof.Machine
end

