-- ==== Sys2Proof/Machine/Agents.lean ====
section
/-! DEFINITION. The steps of the agents `HOST`, `CHAN` and `HANDLER` (00_scope.md R11). But for reset, none
of them changes the block (60_exceptions.md R309). -/

namespace Sys2Proof.Machine

/-- R11, R309: the host reads `STATUS` and `RESULT` of the command that has ended; while `BUSY` is 1 none has.
DESIGN CHOICE (log entry 14): the spec does not say what it reads when no completion is new. Here it reads what
stands on the outputs whenever `BUSY` is 0: the reset values where no command has completed since reset (one that
reset aborted has not, R331), and the same completion once more where it is read again. -/
def readCompletion (s : State) : State :=
  if s.busy then s
  else
    { s with host := { s.host with
        completions := s.host.completions ++ [{ status := s.status, result := s.result }] } }

/-- One step of `HOST`. -/
def hostStep (m : HostMove) (s : State) : State :=
  match m with
  | .offer w => { s with host := { s.host with port := s.host.port ++ [w] } }
  | .readCompletion => readCompletion s
  | .reset => s.blockReset

/-- One step of `CHAN`: an answer is ready, behind those before it (20_memory.md R55, R56, R64). -/
def chanStep (m : ChanMove) (s : State) : State :=
  match m with
  | .answerRead a => { s with chan := { s.chan with rx := s.chan.rx ++ [a] } }
  | .answerWrite a => { s with chan := { s.chan with wr := s.chan.wr ++ [a] } }

/-- One step of `HANDLER` (44_receive.md R218). -/
def handlerStep (a : HdAnswer) (s : State) : State :=
  { s with handler := { s.handler with answers := s.handler.answers ++ [a] } }

end Sys2Proof.Machine
end

