-- ==== Sys2Proof/Machine/Control.lean ====
section
/-! DEFINITION. The control commands (46_control.md) and the reserved opcodes (30_encoding.md R73). -/

namespace Sys2Proof.Machine

open Host (Outcome)

/-- R270: `NOP`. -/
def execNop (s : State) : Outcome State Fault Refusal := .next (s.complete .ok 0)

/-- R271, R272: `REG_READ idx`. -/
def execRegRead (idx : Byte) (s : State) : Outcome State Fault Refusal :=
  match regValue idx s with
  | some v => .next (s.complete .ok v)
  | none => .next (s.complete .badCommand 0)

/-- R73: a word with a reserved opcode completes at once with `BAD_COMMAND` and changes no other state. -/
def execReserved (s : State) : Outcome State Fault Refusal := .next (s.complete .badCommand 0)

end Sys2Proof.Machine
end

