-- ==== Sys2Proof/Machine/CrcUnit.lean ====
section
/-! DEFINITION. The commands of the standalone CRC-16 unit (40_crc.md R113, R114; 10_state.md R22). -/

namespace Sys2Proof.Machine

open Host (Outcome)

/-- R113: `CRC_INIT`. -/
def execCrcInit (s : State) : Outcome State Fault Refusal :=
  .next ({ s with crc := 0x0000 }.complete .ok 0)

/-- R114: `CRC_BYTE b`; the result is the register after the step. -/
def execCrcByte (b : Byte) (s : State) : Outcome State Fault Refusal :=
  .next ({ s with crc := crcStep s.crc b }.complete .ok (zext64Half (crcStep s.crc b)))

end Sys2Proof.Machine
end

