-- ==== Sys2Proof/Machine/ReceiveCycle.lean ====
section
/-! DEFINITION. The receive cycle (44_receive.md R211), one request and its answer, or one
check, at a time (70_reset_and_hazards.md R341; log entry 2), as `RECEIVE` and the wait of `SEND` run it. -/

namespace Sys2Proof.Machine

/-- How a receive cycle ends (R211); `a` is `ACK_SENT`. -/
inductive CycleResult
  | chanErr
  /-- No frame delivered: the payload checksum did not match. -/
  | noFrame (h : Header)
  /-- An ack frame, applied. -/
  | ack (h : Header)
  | delivered (h : Header) (a : Bool)
  | procErr (h : Header) (a : Bool)
  deriving DecidableEq, Repr

/-- What one step of a receive cycle does. -/
inductive CycleStep
  /-- The agent asked has not answered: nothing changes. -/
  | hold
  /-- The cycle goes on. -/
  | more (c : RxCycle) (s : State)
  /-- The cycle ends. -/
  | done (r : CycleResult) (s : State)
  deriving DecidableEq, Repr

/-- A receive cycle begins with a fresh scan (R211, 42_frame_codec.md R153). -/
def freshCycle : RxCycle := .sync freshScan

/-- R211: a valid frame is an ack frame (R212: applied to the tracker, no handler request) or goes to `HANDLER` (R213). -/
def dispatchFrame (h : Header) (p : Option (List Byte)) (s : State) : CycleStep :=
  if h.ptype = 0x00 then .done (.ack h) (s.markId h.mid false (failFlag h.flags))
  else .more (.create h p) s

/-- R215: how a dispatched frame ends the cycle. -/
def dispatched (h : Header) (failed ackSent : Bool) : CycleResult :=
  if failed then .procErr h ackSent else .delivered h ackSent

/-- R214: after `HANDLER`, an ack response is written exactly when the frame asked for one. -/
def afterHandler (h : Header) (failed : Bool) (s : State) : CycleStep :=
  if ackRequested h.flags then .more (.ackWrite h failed) s else .done (dispatched h failed false) s

/-- One read of the synchronizer (R211, 42_frame_codec.md R152, R159). -/
def cycleRead (y : Sync) (s : State) : CycleStep :=
  match chanRead s with
  | none => .hold
  | some (.err, t) => .done .chanErr t
  | some (.byte b, t) => .more (.sync (syncByte s.cfg y b)) t

/-- What a check of the synchronizer leads to (R211, 42_frame_codec.md R156 to R158). -/
def cycleChecked (c : SyncStep) (s : State) : CycleStep :=
  match c with
  | .more y => .more (.sync y) s
  | .done (.frame h p) => dispatchFrame h p s
  | .done (.payloadBad h) => .done (.noFrame h) s

/-- R211: the synchronizer makes the check that is due, or reads. -/
def cycleSync (y : Sync) (s : State) : CycleStep :=
  match syncCheck y with
  | some c => cycleChecked c s
  | none => cycleRead y s

/-- `DISPATCH_CREATE` (R213): `Process` is asked only when `Create` succeeded. -/
def cycleCreate (h : Header) (p : Option (List Byte)) (s : State) : CycleStep :=
  match handlerAsk (.create h.pv h.ptype h.ver h.flags) s with
  | none => .hold
  | some (.ok, t) => .more (.process h p) t
  | some (.fail, t) => afterHandler h true t

/-- `DISPATCH_PROCESS` (R213). -/
def cycleProcess (h : Header) (p : Option (List Byte)) (s : State) : CycleStep :=
  match handlerAsk (.process p) s with
  | none => .hold
  | some (.ok, t) => afterHandler h false t
  | some (.fail, t) => afterHandler h true t

/-- `ACK_WRITE` (R214, R215; 60_exceptions.md R311: a failed write supersedes a processing failure). -/
def cycleAckWrite (h : Header) (failed : Bool) (s : State) : CycleStep :=
  match chanWrite (ackFrame s.cfg h.mid failed) s with
  | none => .hold
  | some (.err _, t) => .done .chanErr t
  | some (.ok, t) => .done (dispatched h failed true) t

/-- R211: one step of a receive cycle. -/
def cycleStep (c : RxCycle) (s : State) : CycleStep :=
  match c with
  | .sync y => cycleSync y s
  | .create h p => cycleCreate h p s
  | .process h p => cycleProcess h p s
  | .ackWrite h failed => cycleAckWrite h failed s

/-- R216: `rxResult(o, h, a)`, fields from bit 63 down. -/
def rxResult (outcome : BitVec 2) (h : Header) (a : Bool) : Long :=
  headerLen h ++ h.pv ++ h.flags ++ h.ver ++ h.ptype ++ h.mid ++ (0 : BitVec 5) ++ bit a ++ outcome

/-- R210: how each end of its cycle completes a `RECEIVE`. -/
def completeReceive (r : CycleResult) (s : State) : State :=
  match r with
  | .chanErr => s.complete .channelError 0
  | .noFrame h => s.complete .ok (rxResult 0 h false)
  | .ack h => s.complete .ok (rxResult 1 h false)
  | .delivered h a => s.complete .ok (rxResult 2 h a)
  | .procErr h a => s.complete .processingError (rxResult 2 h a)

/-- R210: one step of a `RECEIVE` in flight. -/
def receiveStep (c : RxCycle) (s : State) : State :=
  match cycleStep c s with
  | .hold => s
  | .more c' t => t.inFlight (.receive c')
  | .done r t => completeReceive r t

end Sys2Proof.Machine
end

