-- ==== Sys2Proof/Machine/Receive.lean ====
section
/-! DEFINITION. The reception command (44_receive.md R210). -/

namespace Sys2Proof.Machine

open Host (Outcome)

/-- R210: `RECEIVE`, up to its first channel request: a receive cycle begins with a fresh scan. Its reads,
handler requests and ack write are `receiveStep`. -/
def execReceive (s : State) : Outcome State Fault Refusal := .next (s.inFlight (.receive freshCycle))

end Sys2Proof.Machine
end

