-- ==== Sys2Proof/Machine/Tracker.lean ====
section
/-! DEFINITION. The tracker commands (45_tracker.md R246 to R249). -/

namespace Sys2Proof.Machine

open Host (Outcome)

/-- R246: `TRK_ALLOC`. -/
def execTrkAlloc (s : State) : Outcome State Fault Refusal :=
  .next (s.allocId.complete .ok (zext64Byte s.trkCounter))

/-- R247: `TRK_MARK m, p, f`. -/
def execTrkMark (m : Byte) (p f : Bool) (s : State) : Outcome State Fault Refusal :=
  .next ((s.markId m p f).complete .ok 0)

/-- R248, R249: how a query answer completes a command. -/
def State.completeQuery (s : State) (q : QueryAnswer) : State :=
  match q with
  | .outOfWindow => s.complete .timeout 0
  | .bit b => s.complete .ok (zext64Bit b)

/-- R248: `TRK_QPEND m`. -/
def execTrkQpend (m : Byte) (s : State) : Outcome State Fault Refusal :=
  .next (s.completeQuery (s.queryPending m))

/-- R249: `TRK_QFAIL m`. -/
def execTrkQfail (m : Byte) (s : State) : Outcome State Fault Refusal :=
  .next (s.completeQuery (s.queryFailed m))

end Sys2Proof.Machine
end

