-- ==== Sys2Proof/Machine/Sequencer.lean ====
section
/-! DEFINITION. The command sequencer: a `SEND` in flight (43_transmit.md R182 to R190), and the step of
whatever command is in flight (10_state.md R33; 70_reset_and_hazards.md R341). -/

namespace Sys2Proof.Machine

/-- R35, R182: the frame a `SEND` builds once, for the id it allocates and the payload it took. -/
def builtFrame (ptype ver flags : Byte) (payload : List Byte) (s : State) : SendFrame :=
  { mid := s.trkCounter
    head := encodeHead s.cfg s.cfg.protoVersion s.trkCounter ptype ver flags payload
    payload := payload }

/-- R184, R185: after `ALLOC` comes the first frame write; with `ACK_REQ` that is attempt 1 (log entry 10). -/
def firstFlight (flags : Byte) (f : SendFrame) : Flight :=
  if ackRequested flags then .sendAcked f 1 (.write .head) else .sendOnce f .head

/-- R182, R183: `ALLOC`, one step (20_memory.md R62): the id allocated and marked pending, the frame built. -/
def sendAllocStep (ptype ver flags : Byte) (payload : List Byte) (s : State) : State :=
  s.allocId.inFlight (firstFlight flags (builtFrame ptype ver flags payload s))

/-- What one channel write of a frame write does (20_memory.md R57). -/
inductive WriteStep
  /-- `CHAN` has not answered: nothing changes. -/
  | hold
  /-- The head is written and the payload is next. -/
  | more (p : WritePhase) (s : State)
  /-- The frame write answered `Ok`. -/
  | written (s : State)
  /-- The frame write answered `ChanErr`. -/
  | chanErr (s : State)
  deriving DecidableEq, Repr

/-- R57: the bytes a write phase carries. -/
def WritePhase.bytes (f : SendFrame) : WritePhase → List Byte
  | .head => f.head
  | .payload => f.payload

/-- R57: after the head comes the payload, unless it is empty. -/
def afterWrite (f : SendFrame) (p : WritePhase) (s : State) : WriteStep :=
  match p with
  | .head => if f.payload = [] then .written s else .more .payload s
  | .payload => .written s

/-- R57, 43_transmit.md `writeFrame`: one channel write. -/
def writeStep (f : SendFrame) (p : WritePhase) (s : State) : WriteStep :=
  match chanWrite (p.bytes f) s with
  | none => .hold
  | some (.err _, t) => .chanErr t
  | some (.ok, t) => afterWrite f p t

/-- R182: a `SEND` completes with its id as the result (all but `BAD_COMMAND`). -/
def State.completeSend (s : State) (f : SendFrame) (st : Status) : State :=
  s.complete st (zext64Byte f.mid)

/-- R184, R189: a `SEND` without `ACK_REQ` in flight. -/
def sendOnceStep (f : SendFrame) (p : WritePhase) (s : State) : State :=
  match writeStep f p s with
  | .hold => s
  | .more p' t => t.inFlight (.sendOnce f p')
  | .written t => t.completeSend f .ok
  | .chanErr t => t.completeSend f .channelError

/-- R185, R187, R189: the frame write of an attempt. -/
def attemptWrite (f : SendFrame) (n : Nat) (p : WritePhase) (s : State) : State :=
  match writeStep f p s with
  | .hold => s
  | .more p' t => t.inFlight (.sendAcked f n (.write p'))
  | .written t => t.inFlight (.sendAcked f n .waitQuery)
  | .chanErr t => t.completeSend f .channelError

/-- R186, R190: the pending query that comes before each receive cycle of the wait. -/
def waitQuery (f : SendFrame) (n : Nat) (s : State) : State :=
  match s.queryPending f.mid with
  | .outOfWindow => s.completeSend f .timeout
  | .bit true => s.inFlight (.sendAcked f n (.waitReceive freshCycle))
  | .bit false => s.inFlight (.sendAcked f n .resolve)

/-- R185: an attempt has failed: the next one, or `TIMEOUT` after the last. -/
def failedAttempt (f : SendFrame) (n : Nat) (s : State) : State :=
  if n = s.cfg.maxAttempts then s.completeSend f .timeout
  else s.inFlight (.sendAcked f (n + 1) (.write .head))

/-- R186: how each end of a receive cycle continues the wait. -/
def afterCycle (f : SendFrame) (n : Nat) (r : CycleResult) (s : State) : State :=
  match r with
  | .chanErr => failedAttempt f n s
  | .procErr _ _ => s.completeSend f .processingError
  | .noFrame _ => s.inFlight (.sendAcked f n .waitQuery)
  | .ack _ => s.inFlight (.sendAcked f n .waitQuery)
  | .delivered _ _ => s.inFlight (.sendAcked f n .waitQuery)

/-- R186: one step of the receive cycle the wait runs. -/
def waitReceive (f : SendFrame) (n : Nat) (c : RxCycle) (s : State) : State :=
  match cycleStep c s with
  | .hold => s
  | .more c' t => t.inFlight (.sendAcked f n (.waitReceive c'))
  | .done r t => afterCycle f n r t

/-- R188: resolution by the failure bit. -/
def resolveSend (f : SendFrame) (s : State) : State :=
  match s.queryFailed f.mid with
  | .outOfWindow => s.completeSend f .timeout
  | .bit true => s.completeSend f .packetFailure
  | .bit false => s.completeSend f .ok

/-- R182: a `SEND` with `ACK_REQ` in flight. -/
def sendAckedStep (f : SendFrame) (n : Nat) (p : SendPhase) (s : State) : State :=
  match p with
  | .write w => attemptWrite f n w s
  | .waitQuery => waitQuery f n s
  | .waitReceive c => waitReceive f n c s
  | .resolve => resolveSend f s

/-- One step of the command in flight. -/
def flightStep (f : Flight) (s : State) : State :=
  match f with
  | .sendAlloc ptype ver flags payload => sendAllocStep ptype ver flags payload s
  | .sendOnce fr p => sendOnceStep fr p s
  | .sendAcked fr n p => sendAckedStep fr n p s
  | .receive c => receiveStep c s

/-- One step of a busy block. With no command in flight there is nothing to step (`State.Inv` rules it out; log entry 8). -/
def advance (s : State) : State :=
  match s.flight with
  | none => s
  | some f => flightStep f s

end Sys2Proof.Machine
end

