-- ==== Sys2Proof/Machine/Transmit.lean ====
section
/-! DEFINITION. The transmission commands (43_transmit.md R180 to R183). -/

namespace Sys2Proof.Machine

open Host (Outcome)

/-- R180: `TXB_CLEAR`. -/
def execTxbClear (s : State) : Outcome State Fault Refusal := .next ((s.setTxb []).complete .ok 0)

/-- R181: `TXB_PUSH b`. -/
def execTxbPush (b : Byte) (s : State) : Outcome State Fault Refusal :=
  if s.txb.length = txbCapacity then .next (s.complete .txbFull (long txbCapacity))
  else .next ((s.setTxb (s.txb ++ [b])).complete .ok (long (s.txb ++ [b]).length))

/-- R182, R183: `SEND type, ver, flags` is accepted: the type check, then the payload taken and `TXB`
emptied, with `ALLOC` to come. The allocation, the writes and the wait are `flightStep`
(70_reset_and_hazards.md R341). -/
def execSend (ptype ver flags : Byte) (s : State) : Outcome State Fault Refusal :=
  if ptype = 0x00 then .next (s.complete .badCommand 0)
  else .next ((s.setTxb []).inFlight (.sendAlloc ptype ver flags s.txb))

end Sys2Proof.Machine
end

