-- ==== Sys2Proof/Machine/Dispatch.lean ====
section
/-! DEFINITION. The meaning of every command (30_encoding.md R72), one arm per constructor. -/

namespace Sys2Proof.Machine

def exec (i : Instr) (s : State) : Host.Outcome State Fault Refusal :=
  match i with
  | .nop => Sys2Proof.Machine.execNop s
  | .crcInit => Sys2Proof.Machine.execCrcInit s
  | .crcByte b => Sys2Proof.Machine.execCrcByte b s
  | .txbClear => Sys2Proof.Machine.execTxbClear s
  | .txbPush b => Sys2Proof.Machine.execTxbPush b s
  | .send ptype ver flags => Sys2Proof.Machine.execSend ptype ver flags s
  | .receive => Sys2Proof.Machine.execReceive s
  | .trkAlloc => Sys2Proof.Machine.execTrkAlloc s
  | .trkMark m p f => Sys2Proof.Machine.execTrkMark m p f s
  | .trkQpend m => Sys2Proof.Machine.execTrkQpend m s
  | .trkQfail m => Sys2Proof.Machine.execTrkQfail m s
  | .regRead idx => Sys2Proof.Machine.execRegRead idx s

end Sys2Proof.Machine
end

