-- ==== Sys2Proof/Machine/Step.lean ====
section
/-! DEFINITION. One step of the machine (70_reset_and_hazards.md R341; log entries 2 and 11): a step of the
agent whose turn it is; for the block, one step of the command in flight, or the acceptance of the next command
from the port. And the word a table row's number stands for, put where the next step accepts it. -/

namespace Sys2Proof.Machine

open Host (Outcome)

/-- An accepted command word runs the command it decodes to; a reserved opcode completes with `BAD_COMMAND` (30_encoding.md R73). -/
def runWord (w : Word) (s : State) : Outcome State Fault Refusal :=
  match decode w with
  | .instr i => exec i s
  | .reserved _ => execReserved s

/-- 10_state.md R26: a busy block steps its command, an idle one accepts the command offered; with none
offered it changes no state (60_exceptions.md R320). -/
def blockStep (s : State) : Outcome State Fault Refusal :=
  if s.busy then .next (advance s)
  else
    match s.offered with
    | none => .next s
    | some (w, t) => runWord w t

/-- R11: the agent whose turn it is takes its step. -/
def turnStep (a : Turn) (s : State) : Outcome State Fault Refusal :=
  match a with
  | .block => blockStep s
  | .host m => .next (hostStep m s)
  | .chan m => .next (chanStep m s)
  | .handler m => .next (handlerStep m s)

/-- One step. R9: a configuration outside its bounds is refused, "the model has no block for it" (log entry 12). -/
def step (s : State) : Outcome State Fault Refusal :=
  if s.cfg.wf then turnStep s.nextTurn s.passTurn else .refused .noBlock

/-- `s` idle, with this word at the head of the port and the block's turn next, so that the next step accepts
it (log entries 5 and 13). -/
def State.withFetchWord (s : State) (nbits w : Nat) : State :=
  { s with
    busy := false
    flight := none
    host := { s.host with port := tableWord nbits w :: s.host.port }
    turns := .block :: s.turns }

end Sys2Proof.Machine
end

