-- ==== Sys2Proof/Machine/Assembler.lean ====
section
/-! DEFINITION. The assembly syntax of 30_encoding.md (R82) and its pseudo-instructions (R83). A line is a
list of characters. The lexical details R82 leaves open are in log entry 9. -/

namespace Sys2Proof.Machine

/-- The mnemonic of an opcode, as R72 and R82 spell it. -/
def mnemonicOf : Opcode → List Char
  | .nop => ['N', 'O', 'P']
  | .crcInit => ['C', 'R', 'C', '_', 'I', 'N', 'I', 'T']
  | .crcByte => ['C', 'R', 'C', '_', 'B', 'Y', 'T', 'E']
  | .txbClear => ['T', 'X', 'B', '_', 'C', 'L', 'E', 'A', 'R']
  | .txbPush => ['T', 'X', 'B', '_', 'P', 'U', 'S', 'H']
  | .send => ['S', 'E', 'N', 'D']
  | .receive => ['R', 'E', 'C', 'E', 'I', 'V', 'E']
  | .trkAlloc => ['T', 'R', 'K', '_', 'A', 'L', 'L', 'O', 'C']
  | .trkMark => ['T', 'R', 'K', '_', 'M', 'A', 'R', 'K']
  | .trkQpend => ['T', 'R', 'K', '_', 'Q', 'P', 'E', 'N', 'D']
  | .trkQfail => ['T', 'R', 'K', '_', 'Q', 'F', 'A', 'I', 'L']
  | .regRead => ['R', 'E', 'G', '_', 'R', 'E', 'A', 'D']

/-- A line of assembly: a command, or a pseudo-instruction of R83. -/
inductive AsmLine
  | command (i : Instr)
  /-- `CRC_BUF b0, b1, ..., bn-1`. -/
  | crcBuf (bytes : List Byte)
  /-- `SENDP type, ver, flags, [b0, ..., bn-1]`. -/
  | sendP (ptype ver flags : Byte) (bytes : List Byte)
  /-- `ACKSIM id`. -/
  | ackSim (m : Byte)
  /-- `FAILSIM id`. -/
  | failSim (m : Byte)
  deriving DecidableEq, Repr

/-- R83: the commands a line expands to. -/
def AsmLine.expand : AsmLine → List Instr
  | .command i => [i]
  | .crcBuf bytes => .crcInit :: bytes.map .crcByte
  | .sendP ptype ver flags bytes => .txbClear :: bytes.map .txbPush ++ [.send ptype ver flags]
  | .ackSim m => [.trkMark m false false]
  | .failSim m => [.trkMark m false true]

/-- The command words of a program, in order (R82: unused operand bytes assemble as 0). -/
def assembleLines (lines : List AsmLine) : List Word := (lines.flatMap AsmLine.expand).map encode

/-- An operand that is a byte. -/
def byteOperand (n : Nat) : Option Byte := if n < 256 then some (BitVec.ofNat 8 n) else none

/-- R82: "each of `pend`, `fail` is 0 or 1". -/
def flagOperand (n : Nat) : Option Bool :=
  match n with
  | 0 => some false
  | 1 => some true
  | _ => none

/-- R82: the command of a mnemonic with its operands, or none where their number or a value does not fit. -/
def commandOf (o : Opcode) (operands : List Nat) : Option Instr :=
  match o, operands with
  | .nop, [] => some .nop
  | .crcInit, [] => some .crcInit
  | .crcByte, [b] => (byteOperand b).map .crcByte
  | .txbClear, [] => some .txbClear
  | .txbPush, [b] => (byteOperand b).map .txbPush
  | .send, [t, v, f] =>
    match byteOperand t, byteOperand v, byteOperand f with
    | some t, some v, some f => some (.send t v f)
    | _, _, _ => none
  | .receive, [] => some .receive
  | .trkAlloc, [] => some .trkAlloc
  | .trkMark, [m, p, f] =>
    match byteOperand m, flagOperand p, flagOperand f with
    | some m, some p, some f => some (.trkMark m p f)
    | _, _, _ => none
  | .trkQpend, [m] => (byteOperand m).map .trkQpend
  | .trkQfail, [m] => (byteOperand m).map .trkQfail
  | .regRead, [i] => (byteOperand i).map .regRead
  | _, _ => none

/-- The operands of a command, as R82 writes them: its used operands only. -/
def operandsOf : Instr → List Nat
  | .nop => []
  | .crcInit => []
  | .crcByte b => [b.toNat]
  | .txbClear => []
  | .txbPush b => [b.toNat]
  | .send ptype ver flags => [ptype.toNat, ver.toNat, flags.toNat]
  | .receive => []
  | .trkAlloc => []
  | .trkMark m pend fail => [m.toNat, pend.toNat, fail.toNat]
  | .trkQpend m => [m.toNat]
  | .trkQfail m => [m.toNat]
  | .regRead idx => [idx.toNat]

/-- The opcode a mnemonic names. -/
def opcodeOf (mnemonic : List Char) : Option Opcode :=
  Opcode.all.find? (fun o => mnemonicOf o == mnemonic)

/-- A space or a tab. -/
def isBlank (c : Char) : Bool := c == ' ' || c == '\t'

/-- A text without the blanks around it. -/
def trim (cs : List Char) : List Char := ((cs.dropWhile isBlank).reverse.dropWhile isBlank).reverse

/-- The pieces of a text between commas. -/
def splitCommas : List Char → List (List Char)
  | [] => [[]]
  | c :: cs =>
    if c == ',' then [] :: splitCommas cs
    else
      match splitCommas cs with
      | [] => [[c]]
      | piece :: more => (c :: piece) :: more

/-- The value of a digit in base 16, `0-9`, `a-f`, `A-F`. -/
def digitValue (c : Char) : Option Nat :=
  if '0' ≤ c ∧ c ≤ '9' then some (c.toNat - '0'.toNat)
  else if 'a' ≤ c ∧ c ≤ 'f' then some (c.toNat - 'a'.toNat + 10)
  else if 'A' ≤ c ∧ c ≤ 'F' then some (c.toNat - 'A'.toNat + 10)
  else none

/-- The number some digits write in a base, on top of the digits read so far. -/
def digitsValue (base : Nat) (acc : Nat) : List Char → Option Nat
  | [] => some acc
  | c :: cs =>
    match digitValue c with
    | none => none
    | some d => if d < base then digitsValue base (acc * base + d) cs else none

/-- R82: "a number in decimal or `0x` hex". -/
def parseNumber (cs : List Char) : Option Nat :=
  match cs with
  | [] => none
  | ['0', 'x'] => none
  | '0' :: 'x' :: ds => digitsValue 16 0 ds
  | ds => digitsValue 10 0 ds

/-- Operands separated by commas; a blank text is no operand. -/
def parseNumbers (cs : List Char) : Option (List Nat) :=
  if trim cs = [] then some [] else (splitCommas cs).mapM (fun piece => parseNumber (trim piece))

/-- Byte operands separated by commas. -/
def parseBytes (cs : List Char) : Option (List Byte) :=
  match parseNumbers cs with
  | none => none
  | some ns => ns.mapM byteOperand

/-- The text inside `[...]` at the end of a line. -/
def bracketed (cs : List Char) : Option (List Char) :=
  match (trim cs).reverse with
  | ']' :: inside => some inside.reverse
  | _ => none

/-- R83: the operands of `SENDP`, `type, ver, flags, [b0, ..., bn-1]`. -/
def parseSendP (rest : List Char) : Option AsmLine :=
  match (splitCommas (rest.takeWhile (fun c => c != '['))).map trim, bracketed ((rest.dropWhile (fun c => c != '[')).drop 1) with
  | [t, v, f, []], some inside =>
    match parseNumber t, parseNumber v, parseNumber f, parseBytes inside with
    | some t, some v, some f, some bytes =>
      match byteOperand t, byteOperand v, byteOperand f with
      | some t, some v, some f => some (.sendP t v f bytes)
      | _, _, _ => none
    | _, _, _, _ => none
  | _, _ => none

/-- A mnemonic and the text after it. -/
def parseStatement (mnemonic rest : List Char) : Option AsmLine :=
  match opcodeOf mnemonic with
  | some o =>
    match parseNumbers rest with
    | some ns => (commandOf o ns).map .command
    | none => none
  | none =>
    if mnemonic = ['C', 'R', 'C', '_', 'B', 'U', 'F'] then (parseBytes rest).map .crcBuf
    else if mnemonic = ['S', 'E', 'N', 'D', 'P'] then parseSendP rest
    else if mnemonic = ['A', 'C', 'K', 'S', 'I', 'M'] then
      match parseBytes rest with
      | some [m] => some (.ackSim m)
      | _ => none
    else if mnemonic = ['F', 'A', 'I', 'L', 'S', 'I', 'M'] then
      match parseBytes rest with
      | some [m] => some (.failSim m)
      | _ => none
    else none

/-- R82: one line of assembly; a comment starts with `;`. A blank line holds no command; none where the
line does not follow the syntax. -/
def parseLine (cs : List Char) : Option (List AsmLine) :=
  let text := trim (cs.takeWhile (fun c => c != ';'))
  if text = [] then some []
  else
    (parseStatement (text.takeWhile (fun c => !isBlank c)) (text.dropWhile (fun c => !isBlank c))).map
      (fun line => [line])

/-- The command words of a program text, one line each; none where a line does not follow the syntax. -/
def assemble (lines : List (List Char)) : Option (List Word) :=
  match lines.mapM parseLine with
  | none => none
  | some parsed => some (assembleLines parsed.flatten)

end Sys2Proof.Machine
end

