-- ==== Sys2Proof/Safety.lean ====
section
/-! DEFINITION. The terms the claims use: the invariant of the block, what a legal hidden state is, and
short names for an idle block, an unfinished run and the answers an agent will give. -/

namespace Sys2Proof.Machine

/-- 10_state.md R34: the synchronizer holds fewer than nine header bytes, or all nine and up to two checksum
bytes, or up to the declared payload bytes, and its private working register is the checksum of the header or
payload bytes read. -/
def Sync.wf : Sync → Prop
  | .scan _ => True
  | .header h crc => h.length < 9 ∧ crc = crc16 h
  | .hcs h c crc => h.length = 9 ∧ c.length ≤ 2 ∧ crc = crc16 h
  | .payload h p crc => headerLen h ≠ 0 ∧ p.length ≤ (headerLen h).toNat ∧ crc = crc16 p

/-- 42_frame_codec.md R152: the payload of a valid frame: absent exactly when the declared length is 0,
else of the declared length and matching the declared checksum. -/
def payloadValid (h : Header) : Option (List Byte) → Prop
  | none => headerLen h = 0
  | some p => p ≠ [] ∧ p.length = (headerLen h).toNat ∧ crc16 p = headerPcs h

/-- 10_state.md R33, 44_receive.md R211: the dispatch phases belong to valid normal frames, and an ack
response to a frame that asked for one. -/
def RxCycle.wf : RxCycle → Prop
  | .sync y => y.wf
  | .create h p => h.ptype ≠ 0 ∧ payloadValid h p
  | .process h p => h.ptype ≠ 0 ∧ payloadValid h p
  | .ackWrite h _ => h.ptype ≠ 0 ∧ ackRequested h.flags = true

/-- 10_state.md R35, 43_transmit.md R182: the frame a `SEND` holds is a frame of R150 for its id, of a
normal type, with `ACK_REQ` as the command had it. -/
def SendFrame.built (cfg : Config) (acked : Bool) (f : SendFrame) : Prop :=
  f.payload.length ≤ txbCapacity ∧
  ∃ ptype ver flags : Byte,
    ptype ≠ 0 ∧ ackRequested flags = acked ∧
    f.head = encodeHead cfg cfg.protoVersion f.mid ptype ver flags f.payload

/-- 20_memory.md R57: a payload write is made only for a payload that is not empty. -/
def WritePhase.wf (f : SendFrame) : WritePhase → Prop
  | .head => True
  | .payload => f.payload ≠ []

/-- 43_transmit.md R186, R188, 70_reset_and_hazards.md R339: the id of a `SEND` is pending while it writes
and while it receives, and resolved when it resolves. -/
def SendPhase.wf (s : State) (f : SendFrame) : SendPhase → Prop
  | .write p => p.wf f ∧ s.queryPending f.mid = .bit true
  | .waitQuery => True
  | .waitReceive c => c.wf ∧ s.queryPending f.mid = .bit true
  | .resolve => s.queryPending f.mid = .bit false

/-- What a command in flight may hold (10_state.md R33 to R35); the id of a `SEND` is the last one
allocated (43_transmit.md R190). -/
def Flight.wf (s : State) : Flight → Prop
  | .sendAlloc ptype _ _ payload => ptype ≠ 0 ∧ payload.length ≤ txbCapacity
  | .sendOnce f p =>
    f.built s.cfg false ∧ s.trkCounter = f.mid + 1 ∧ p.wf f ∧ s.queryPending f.mid = .bit true
  | .sendAcked f n p =>
    f.built s.cfg true ∧ s.trkCounter = f.mid + 1 ∧ 1 ≤ n ∧ n ≤ s.cfg.maxAttempts ∧ p.wf s f
  | .receive c => c.wf

/-- The invariant of the block. -/
structure State.Inv (s : State) : Prop where
  /-- R9: the configuration is one the model has a block for. -/
  cfgOk : s.cfg.wf = true
  /-- R26, R20: `BUSY` is 1 exactly while a command, and so its hidden state, is in flight. -/
  busyExact : s.busy = s.flight.isSome
  /-- R23: the capacity of `TXB`. -/
  txbFits : s.txb.length ≤ txbCapacity
  /-- R28: `TRK_PENDING` has `W` bits. -/
  pendingFits : s.trkPending &&& windowMask s.cfg.w = s.trkPending
  /-- R29: `TRK_FAILED` has `W` bits. -/
  failedFits : s.trkFailed &&& windowMask s.cfg.w = s.trkFailed
  /-- R24: the codes `7..15` are never written. -/
  statusDefined : s.status.toNat ≤ 6
  /-- R33 to R35. -/
  flightOk : ∀ f, s.flight = some f → f.wf s

/-- An idle block that has a configuration, with only steps of the block to come: what a claim about a run
starts from. (That an answer or a command may as well come later is `AgentsTakeTheirOwnSteps`.) -/
def State.Ready (s : State) : Prop :=
  s.cfg.wf = true ∧ s.turns = [] ∧ s.busy = false ∧ s.flight = none

/-- A block that has a configuration and is busy with this command, its own step coming next. -/
def State.Runs (s : State) (f : Flight) : Prop :=
  s.cfg.wf = true ∧ s.nextTurn = .block ∧ s.busy = true ∧ s.flight = some f

/-- A flight in a receive cycle: of a `RECEIVE`, or of the wait of a `SEND` (44_receive.md R211). -/
def Flight.inCycle (c : RxCycle) (f : Flight) : Prop :=
  f = .receive c ∨ ∃ fr n, f = .sendAcked fr n (.waitReceive c)

/-- 44_receive.md R211, R212: the synchronizer of the command in flight is about to deliver an ack frame with
this header. -/
def State.ackDue (s : State) (h : Header) : Prop :=
  ∃ f y p, s.flight = some f ∧ f.inCycle (.sync y) ∧ syncCheck y = some (.done (.frame h p)) ∧ h.ptype = 0x00

/-- `n` steps from `s` end in `t`: none of them stops. -/
def RunsTo (n : Nat) (s t : State) : Prop := Sys2Proof.core.run n s = .next t

/-- A command starts in `s` and, after `n` further steps, the machine is in `t`. -/
def CommandRunsTo (i : Instr) (n : Nat) (s t : State) : Prop :=
  ∃ s₁, exec i s = .next s₁ ∧ RunsTo n s₁ t

/-- Read answers that are all bytes (20_memory.md R55). -/
def asBytes (bytes : List Byte) : List RxAnswer := bytes.map .byte

/-- 30_encoding.md R75: the wire bytes of a frame with these nine header bytes: marker, header, the header's
checksum, payload. -/
def wireFrame (cfg : Config) (h p : List Byte) : List Byte :=
  [cfg.sync0, cfg.sync1] ++ h ++ [lo8 (crc16 h), hi8 (crc16 h)] ++ p

/-- 42_frame_codec.md R157: nine header bytes and the payload they declare; the declared checksum counts only
where the payload is not empty. -/
def validFrame (h p : List Byte) : Prop :=
  h.length = 9 ∧ p.length = (headerLen (headerOf h)).toNat ∧ (p ≠ [] → crc16 p = headerPcs (headerOf h))

/-- The steps in which a receive cycle takes a frame: a read for each byte, the header check, and the payload
check where there is a payload (log entry 2). -/
def frameSteps (p : List Byte) : Nat := 13 + p.length + (if p = [] then 1 else 2)

/-- No two bytes in a row are the marker (42_frame_codec.md R161). -/
def markerFree (cfg : Config) : List Byte → Bool
  | a :: b :: rest => !(a == cfg.sync0 && b == cfg.sync1) && markerFree cfg (b :: rest)
  | _ => true

/-- The write requests of one frame write that `CHAN` accepts (20_memory.md R57). -/
def frameWrites (f : SendFrame) : List (List Byte) :=
  if f.payload = [] then [f.head] else [f.head, f.payload]

/-- The number of channel writes of one frame write. -/
def writeCount (f : SendFrame) : Nat := (frameWrites f).length

/-- The ids of the window, the most recently allocated first (45_tracker.md R241). -/
def State.windowId (s : State) (p : Nat) : Byte := s.trkCounter - BitVec.ofNat 8 (p + 1)

/-- `n` allocations one after another. -/
def State.allocIds : Nat → State → State
  | 0, s => s
  | n + 1, s => State.allocIds n s.allocId

end Sys2Proof.Machine
end

