-- ==== Sys2Proof/WellFormed.lean ====
section
/-! DEFINITION. Which operand values a command accepts (30_encoding.md R74: "Operand values that a
command refuses are listed in its own rule (`SEND` with type `0x00`, `REG_READ` with an undefined
index)"). Operand widths need no check: the term's types hold them. An ill-formed command still
decodes, runs and completes, with `BAD_COMMAND` (60_exceptions.md R305). -/

namespace Sys2Proof

/-- The command's operands are ones its rule accepts. -/
def Instr.wellFormed : Instr → Bool
  | .nop => true
  | .crcInit => true
  | .crcByte _ => true
  | .txbClear => true
  | .txbPush _ => true
  -- R182: type `0x00` is refused
  | .send ptype _ _ => decide (ptype ≠ 0)
  | .receive => true
  | .trkAlloc => true
  | .trkMark _ _ _ => true
  | .trkQpend _ => true
  | .trkQfail _ => true
  -- R272: the indices `0x00..0x08` are defined
  | .regRead idx => decide (idx.toNat ≤ 8)

end Sys2Proof
end

