-- ==== Sys2Proof/Certificates/Slice0/Obligations.lean ====
section
/-! DEFINITION. The statements for the provers (OBLIGATIONS.json). A next state is written out as an update
of the state before it, so each such statement is also the frame: every field it does not name is unchanged. -/

open Sys2Proof Sys2Proof.Machine

/-! ### Configuration, step and reset -/

/-- R9: the parameters, their defaults, and the configurations that are refused; that `step` refuses those (log
entry 12), and that a block that is configured steps in every state (R312: nothing traps; log entry 8 for the
states no run reaches) and keeps its parameters (R21), is the model's reading. -/
def Obligations.ConfigurationsRefused : Prop :=
  (∀ (pv : Byte) (m : Nat) (s0 s1 : Byte) (w : Nat) (c : Config),
    Config.build? pv m s0 s1 w = some c →
      c.protoVersion = pv ∧ c.maxAttempts = m ∧ c.sync0 = s0 ∧ c.sync1 = s1 ∧ c.w.width = w) ∧
  (∀ (pv : Byte) (m : Nat) (s0 s1 : Byte) (w : Nat),
    Config.build? pv m s0 s1 w = none ↔ m = 0 ∨ 2 ^ 64 ≤ m ∨ (w ≠ 32 ∧ w ≠ 64)) ∧
  (∀ (pv : Byte) (m : Nat),
    ({ protoVersion := pv, maxAttempts := m } : Config) =
      { protoVersion := pv, maxAttempts := m, sync0 := 0x0F, sync1 := 0x0A, w := .w32 }) ∧
  (∀ s : State,
    (s.cfg.maxAttempts = 0 ∨ 2 ^ 64 ≤ s.cfg.maxAttempts → step s = .refused .noBlock) ∧
    (1 ≤ s.cfg.maxAttempts ∧ s.cfg.maxAttempts < 2 ^ 64 → ∃ t, step s = .next t ∧ t.cfg = s.cfg))

/-- R26, R72, R73: on its turn, an idle block runs the command the word at the head of the port decodes to, on
the state with that word accepted and the turn taken (log entry 11); a word with a reserved opcode completes at
once with `BAD_COMMAND`. -/
def Obligations.StepRunsDecodedCommand : Prop :=
  ∀ (s : State) (w : Word) (rest : List Word),
    s.cfg.wf = true → s.nextTurn = .block → s.busy = false → s.host.port = w :: rest →
    let accepted := { s with host := { s.host with port := rest }, turns := s.turns.tail }
    (∀ i : Instr, decode w = .instr i → step s = exec i accepted) ∧
    (Opcode.ofByte? (opField w) = none →
      step s = .next { accepted with status := Status.badCommand.code, result := 0, busy := false, flight := none })

/-- R330: the reset state, of `State.reset` and of any configuration. -/
def Obligations.ResetStateValues : Prop :=
  ∀ s : State,
    s = State.reset ∨ (∃ cfg, s = State.resetWith cfg) ∨ (∃ s', s = State.blockReset s') →
    s.crc = 0x0000 ∧ s.txb = [] ∧ s.trkCounter = 0x00 ∧ s.trkPending = 0 ∧ s.trkFailed = 0 ∧
    s.status = Status.ok.code ∧ s.status = 0 ∧ s.result = 0 ∧ s.busy = false ∧ s.flight = none ∧
    exec .receive s = .next { s with busy := true, flight := some (.receive (.sync (.scan none))) }

/-- R331, R332: a reset aborts whatever is in flight at once, and changes no parameter and nothing `CHAN` or
`HANDLER` holds; no request is made. (That the commands still offered stay on the port is the model's choice,
log entry 5.) -/
def Obligations.ResetAbortsCommand : Prop :=
  ∀ s : State, s.cfg.wf = true → s.nextTurn = .host .reset →
    step s = .next
      { s with
        crc := 0x0000, txb := [], trkCounter := 0x00, trkPending := 0, trkFailed := 0
        status := 0, result := 0, busy := false, flight := none, turns := s.turns.tail }

/-- The state after reset satisfies the invariant, in every configuration R9 admits. -/
def Obligations.ResetSatisfiesInvariant : Prop :=
  ∀ cfg : Config, cfg.wf = true → (State.resetWith cfg).Inv

/-- Every step keeps the invariant: `BUSY` is 1 exactly while a command is in flight, `TXB` fits, the masks
have `W` bits, `STATUS` is a defined code, and the hidden state of R33 to R35 is legal: the synchronizer's
private CRC is the checksum of what it read, the frame of a `SEND` is the frame built for its id, the id is the
last one allocated, pending while the command writes and receives, and the attempt is in `1..MAX_ATTEMPTS`. -/
def Obligations.StepKeepsInvariant : Prop :=
  ∀ s t : State, s.Inv → step s = .next t → t.Inv

/-! ### Encoding -/

/-- R70 to R72: decoding the word of a command gives the command back, every operand at every value. -/
def Obligations.DecodeInvertsEncode : Prop :=
  ∀ i : Instr, decode (encode i) = .instr i

/-- R74: the operand bits a command does not use are ignored, and the encoder writes them as zero. -/
def Obligations.UnusedOperandBitsIgnored : Prop :=
  (∀ (w : Word) (o : Opcode), opField w = o.byte → decode w = decode (w &&& o.usedBits)) ∧
  (∀ (w : Word) (i : Instr), decode w = .instr i → encode i = w &&& i.opcode.usedBits) ∧
  (∀ (s : State) (w : Word) (o : Opcode), opField w = o.byte → runWord w s = runWord (w &&& o.usedBits) s)

/-- R73: the 244 reserved opcodes; a word with one completes at once with `BAD_COMMAND` and result 0,
changing no other state and making no request. -/
def Obligations.ReservedOpcodesRejected : Prop :=
  ((List.range 256).filter (fun n => (Opcode.ofByte? (BitVec.ofNat 8 n)).isNone)).length = 244 ∧
  (∀ n : Nat, n < 256 →
    ((Opcode.ofByte? (BitVec.ofNat 8 n) = none) ↔
      (0x03 ≤ n ∧ n ≤ 0x0F) ∨ (0x12 ≤ n ∧ n ≤ 0x1F) ∨ (0x22 ≤ n ∧ n ≤ 0x2F) ∨ (0x34 ≤ n ∧ n ≤ 0x3F) ∨
      (0x41 ≤ n ∧ n ≤ 0xFF))) ∧
  (∀ (w : Word) (s : State), Opcode.ofByte? (opField w) = none →
    decode w = .reserved (opField w) ∧
    runWord w s = .next { s with status := Status.badCommand.code, result := 0, busy := false, flight := none })

/-- R70, R72: words written out from the encoding decode to the commands they stand for (a sanity check). -/
def Obligations.EncodedWordsDecode : Prop :=
  decode 0x00000000 = .instr .nop ∧ decode 0x02310000 = .instr (.crcByte 0x31) ∧
  decode 0x20050101 = .instr (.send 0x05 0x01 0x01) ∧ decode 0x21000000 = .instr .receive ∧
  decode 0x31000001 = .instr (.trkMark 0x00 false true) ∧ decode 0x40080000 = .instr (.regRead 0x08)

/-- R82: a command is assembled from its mnemonic and its used operands, and no other number of operands fits. -/
def Obligations.AssemblerReadsEveryCommand : Prop :=
  (∀ i : Instr, opcodeOf (mnemonicOf i.opcode) = some i.opcode ∧ commandOf i.opcode (operandsOf i) = some i) ∧
  (∀ (o : Opcode) (ns : List Nat) (i : Instr), commandOf o ns = some i → i.opcode = o ∧ operandsOf i = ns)

/-! ### Control and CRC commands -/

/-- R270: `NOP`. -/
def Obligations.NopDoesNothing : Prop :=
  (∀ w : Word, opField w = 0x00 → decode w = .instr .nop) ∧ encode .nop = 0x00000000 ∧
  ∀ s : State, exec .nop s = .next { s with status := 0, result := 0, busy := false, flight := none }

/-- R271, R272: `REG_READ idx`: each defined index, and `BAD_COMMAND` for every other; nothing else changes. -/
def Obligations.RegReadReadsEachRegister : Prop :=
  (∀ w : Word, opField w = 0x40 → decode w = .instr (.regRead (w.extractLsb' 16 8))) ∧
  ∀ s : State,
    let answers := fun (idx : Byte) (v : Long) =>
      exec (.regRead idx) s = .next { s with status := 0, result := v, busy := false, flight := none }
    answers 0x00 (s.crc.zeroExtend 64) ∧
    answers 0x01 (s.trkCounter.zeroExtend 64) ∧
    answers 0x02 s.trkPending ∧
    answers 0x03 s.trkFailed ∧
    answers 0x04 (BitVec.ofNat 64 s.txb.length) ∧
    answers 0x05 (s.cfg.protoVersion.zeroExtend 64) ∧
    answers 0x06 (match s.cfg.w with | .w32 => 32 | .w64 => 64) ∧
    answers 0x07 (BitVec.ofNat 64 s.cfg.maxAttempts) ∧
    answers 0x08 ((s.cfg.sync1.zeroExtend 64 <<< 8) ||| s.cfg.sync0.zeroExtend 64) ∧
    ∀ idx : Byte, 0x09 ≤ idx.toNat →
      exec (.regRead idx) s = .next { s with status := 5, result := 0, busy := false, flight := none }

/-- R113: `CRC_INIT`. -/
def Obligations.CrcInitClears : Prop :=
  (∀ w : Word, opField w = 0x01 → decode w = .instr .crcInit) ∧ encode .crcInit = 0x01000000 ∧
  ∀ s : State,
    exec .crcInit s = .next { s with crc := 0x0000, status := 0, result := 0, busy := false, flight := none }

/-- R114: `CRC_BYTE b`, and the sequence `CRC_INIT; CRC_BYTE L[0]; ...; CRC_BYTE L[n-1]`. -/
def Obligations.CrcByteFeedsTheRegister : Prop :=
  (∀ w : Word, opField w = 0x02 → decode w = .instr (.crcByte (w.extractLsb' 16 8))) ∧
  (∀ (b : Byte) (s : State),
    exec (.crcByte b) s = .next
      { s with
        crc := crcStep s.crc b, status := 0, result := (crcStep s.crc b).zeroExtend 64
        busy := false, flight := none }) ∧
  (∀ (bytes : List Byte) (s : State), s.Ready → s.host.port = (.crcInit :: bytes.map .crcByte).map encode →
    ∃ t, RunsTo (bytes.length + 1) s t ∧ t.crc = crc16 bytes ∧ t.host.port = [])

/-- R111, R112: one iteration shifts the register right and XORs the polynomial, bits 15, 13 and 0, into the
shifted value when the bit shifted out is 1; the byte step is 8 of them on `c XOR zext_16(b)`; the checksum folds
the byte step from `0x0000`, so the empty list and every list of zero bytes give 0. -/
def Obligations.ChecksumAlgorithm : Prop :=
  (∀ (c : Half) (i : Nat), i < 16 →
    (crcShift c).getLsbD i =
      xor (c.getLsbD (i + 1)) (c.getLsbD 0 && (i == 15 || i == 13 || i == 0))) ∧
  (∀ (c : Half) (b : Byte),
    crcStep c b =
      crcShift (crcShift (crcShift (crcShift (crcShift (crcShift (crcShift (crcShift
        (c ^^^ b.zeroExtend 16))))))))) ∧
  crcStep 0x0000 0x01 = 0xC0C1 ∧ crcStep 0x0000 0x80 = 0xA001 ∧ crcStep 0xFFFF 0x00 = 0x40BF ∧
  crc16 [] = 0x0000 ∧
  (∀ (l : List Byte) (b : Byte), crc16 (l ++ [b]) = crcStep (crc16 l) b) ∧
  (∀ n : Nat, crc16 (List.replicate n 0x00) = 0x0000) ∧
  crc16 [0x80] = 0xA001 ∧ crc16 [0x31, 0x32, 0x33, 0x34, 0x35, 0x36, 0x37, 0x38, 0x39] = 0xBB3D

/-- R64, R111: corruption confined to one byte always changes the checksum. -/
def Obligations.ChecksumDetectsOneBadByte : Prop :=
  ∀ (l m : List Byte) (b b' : Byte), b ≠ b' → crc16 (l ++ b :: m) ≠ crc16 (l ++ b' :: m)

/-- R130 to R134: the bit and byte helpers. -/
def Obligations.BitAndByteHelpers : Prop :=
  (∀ (f : Byte) (n : Nat), n < 8 → flagGet f n = BitVec.ofBool (f.getLsbD n) ∧ flagTest f n = f.getLsbD n) ∧
  (∀ (f : Byte) (n : Nat) (v : BitVec 1) (i : Nat), n < 8 → i < 8 →
    (flagSet f n v).getLsbD i = if i = n then v.getLsbD 0 else f.getLsbD i) ∧
  flagSet 0x00 1 1 = 0x02 ∧
  (∀ (v : Half) (i : Nat), i < 8 → (lo8 v).getLsbD i = v.getLsbD i ∧ (hi8 v).getLsbD i = v.getLsbD (i + 8)) ∧
  (∀ v : Half, join16 (lo8 v) (hi8 v) = v) ∧
  (∀ l h : Byte, lo8 (join16 l h) = l ∧ hi8 (join16 l h) = h) ∧
  (∀ l h : Byte, (join16 l h).toNat = 256 * h.toNat + l.toNat)

/-! ### Tracker -/

/-- R246: `TRK_ALLOC`; the id allocated `W` allocations earlier, at distance `W` before, leaves the window. -/
def Obligations.TrkAllocAllocates : Prop :=
  (∀ w : Word, opField w = 0x30 → decode w = .instr .trkAlloc) ∧ encode .trkAlloc = 0x30000000 ∧
  (∀ s : State, ∃ pending failed : Long,
    exec .trkAlloc s = .next
      { s with
        trkCounter := s.trkCounter + 1, trkPending := pending, trkFailed := failed
        status := 0, result := s.trkCounter.zeroExtend 64, busy := false, flight := none } ∧
    ∀ i : Nat, i < 64 →
      pending.getLsbD i = (i == 0 || (decide (i < s.cfg.w.width) && s.trkPending.getLsbD (i - 1))) ∧
      failed.getLsbD i = (i != 0 && decide (i < s.cfg.w.width) && s.trkFailed.getLsbD (i - 1))) ∧
  ∀ (s t : State) (m : Byte), exec .trkAlloc s = .next t →
    (s.trkCounter.toNat + 256 - m.toNat) % 256 = s.cfg.w.width →
    ¬ (t.trkCounter.toNat + 256 - m.toNat) % 256 ≤ t.cfg.w.width

/-- R247: `TRK_MARK m, p, f`: in the window both bits of the id are written and no other bit changes;
outside it nothing changes and the status is still `OK`. -/
def Obligations.TrkMarkMarks : Prop :=
  (∀ w : Word, opField w = 0x31 →
    decode w = .instr (.trkMark (w.extractLsb' 16 8) (w.getLsbD 8) (w.getLsbD 0))) ∧
  ∀ (m : Byte) (p f : Bool) (s : State),
    let dist := (s.trkCounter.toNat + 256 - m.toNat) % 256
    ∃ pending failed : Long,
      exec (.trkMark m p f) s = .next
        { s with
          trkPending := pending, trkFailed := failed, status := 0, result := 0, busy := false, flight := none } ∧
      (1 ≤ dist ∧ dist ≤ s.cfg.w.width → ∀ i : Nat, i < 64 →
        pending.getLsbD i = (if i + 1 = dist then p else s.trkPending.getLsbD i) ∧
        failed.getLsbD i = (if i + 1 = dist then f else s.trkFailed.getLsbD i)) ∧
      (¬ (1 ≤ dist ∧ dist ≤ s.cfg.w.width) → pending = s.trkPending ∧ failed = s.trkFailed)

/-- R248, R249: `TRK_QPEND m` and `TRK_QFAIL m`: the bit of the id in the window, `TIMEOUT` outside it. -/
def Obligations.TrackerQueriesAnswer : Prop :=
  (∀ w : Word, opField w = 0x32 → decode w = .instr (.trkQpend (w.extractLsb' 16 8))) ∧
  (∀ w : Word, opField w = 0x33 → decode w = .instr (.trkQfail (w.extractLsb' 16 8))) ∧
  ∀ (m : Byte) (s : State),
    let dist := (s.trkCounter.toNat + 256 - m.toNat) % 256
    let answer := fun (v : Long) =>
      if 1 ≤ dist ∧ dist ≤ s.cfg.w.width then
        { s with status := 0, result := if v.getLsbD (dist - 1) then 1 else 0, busy := false, flight := none }
      else { s with status := 2, result := 0, busy := false, flight := none }
    exec (.trkQpend m) s = .next (answer s.trkPending) ∧ exec (.trkQfail m) s = .next (answer s.trkFailed)

/-- R242: an allocation keeps the state of every id that stays in the window, at the next position, evicts
the id at position `W - 1`, and tracks the new id at position 0, pending and not failed. -/
def Obligations.AllocationKeepsTheMapping : Prop :=
  ∀ (s : State) (m : Byte),
    s.allocId.queryPending s.trkCounter = .bit true ∧ s.allocId.queryFailed s.trkCounter = .bit false ∧
    s.allocId.pos s.trkCounter = 0 ∧
    (s.inWindow m = true → s.pos m + 1 < s.cfg.w.width →
      s.allocId.pos m = s.pos m + 1 ∧ s.allocId.queryPending m = s.queryPending m ∧
      s.allocId.queryFailed m = s.queryFailed m) ∧
    (s.inWindow m = true → s.pos m + 1 = s.cfg.w.width → s.allocId.queryPending m = .outOfWindow)

/-- R243 to R245: a mark in the window is what both queries of that id then answer, and leaves every other
id's answers; a mark outside the window changes nothing, and its id's queries answer `OutOfWindow`. -/
def Obligations.MarkIsWhatQueriesAnswer : Prop :=
  ∀ (s : State) (m : Byte) (p f : Bool),
    (s.inWindow m = true →
      (s.markId m p f).queryPending m = .bit p ∧ (s.markId m p f).queryFailed m = .bit f ∧
      ∀ m' : Byte, m' ≠ m →
        (s.markId m p f).queryPending m' = s.queryPending m' ∧ (s.markId m p f).queryFailed m' = s.queryFailed m') ∧
    (s.inWindow m = false →
      s.markId m p f = s ∧ s.queryPending m = .outOfWindow ∧ s.queryFailed m = .outOfWindow)

/-- R250: an id is in the window through the next `W - 1` allocations and out of it from the `W`-th on, until
the counter comes round; then every query of it is a `TIMEOUT` and every mark of it is ignored. -/
def Obligations.LaggingIdIsEvicted : Prop :=
  ∀ (s : State) (k : Nat),
    let m := s.trkCounter
    let later := State.allocIds k s.allocId
    (k < s.cfg.w.width →
      later.queryPending m = .bit true ∧ later.queryFailed m = .bit false ∧ later.pos m = k) ∧
    (s.cfg.w.width ≤ k → k ≤ 255 →
      later.queryPending m = .outOfWindow ∧ later.queryFailed m = .outOfWindow ∧
      exec (.trkQpend m) later = .next { later with status := 2, result := 0, busy := false, flight := none } ∧
      exec (.trkQfail m) later = .next { later with status := 2, result := 0, busy := false, flight := none } ∧
      ∀ p f : Bool, later.markId m p f = later)

/-- R251: 256 allocations return every id exactly once and the counter to its start; the `W` ids of the
window are distinct. -/
def Obligations.AllocationsWrapWithoutGap : Prop :=
  ∀ s : State,
    (State.allocIds 256 s).trkCounter = s.trkCounter ∧
    (∀ k : Nat, (State.allocIds (k + 1) s).trkCounter = (State.allocIds k s).trkCounter + 1) ∧
    (∀ m : Byte, ∃ k, k < 256 ∧ (State.allocIds k s).trkCounter = m ∧
      ∀ j, j < 256 → (State.allocIds j s).trkCounter = m → j = k) ∧
    ∀ p q : Nat, p < s.cfg.w.width → q < s.cfg.w.width → s.windowId p = s.windowId q → p = q

/-- R253, R252, R241: every id of the window answers both queries; right after reset these are the ids
`256-W .. 255`, with both bits 0, and no other id is in the window. -/
def Obligations.WindowQueriesSucceed : Prop :=
  (∀ (s : State) (p : Nat), p < s.cfg.w.width →
    s.queryPending (s.windowId p) = .bit (s.trkPending.getLsbD p) ∧
    s.queryFailed (s.windowId p) = .bit (s.trkFailed.getLsbD p)) ∧
  (∀ (cfg : Config) (m : Byte),
    (State.resetWith cfg).queryPending m =
      (if 256 - cfg.w.width ≤ m.toNat then .bit false else .outOfWindow) ∧
    (State.resetWith cfg).queryFailed m =
      (if 256 - cfg.w.width ≤ m.toNat then .bit false else .outOfWindow))

/-! ### Frame codec -/

/-- R150, R75: the head of a frame, field by field, and its examples. -/
def Obligations.FrameLayout : Prop :=
  (∀ (cfg : Config) (pv mid ptype ver flags : Byte) (p : List Byte), p.length ≤ 65535 →
    ∃ lenLo lenHi pcsLo pcsHi hcsLo hcsHi : Byte,
      frameBytes cfg pv mid ptype ver flags p =
        [cfg.sync0, cfg.sync1, pv, mid, ptype, ver, flags, lenLo, lenHi, pcsLo, pcsHi, hcsLo, hcsHi] ++ p ∧
      256 * lenHi.toNat + lenLo.toNat = p.length ∧
      join16 pcsLo pcsHi = crc16 p ∧
      join16 hcsLo hcsHi = crc16 [pv, mid, ptype, ver, flags, lenLo, lenHi, pcsLo, pcsHi]) ∧
  frameBytes Config.vectors 0x01 0x00 0x05 0x01 0x00 [] =
    [0x0F, 0x0A, 0x01, 0x00, 0x05, 0x01, 0x00, 0x00, 0x00, 0x00, 0x00, 0x59, 0x41] ∧
  frameBytes Config.vectors 0x01 0x00 0x05 0x01 0x01 [0x01, 0x02, 0x03] =
    [0x0F, 0x0A, 0x01, 0x00, 0x05, 0x01, 0x01, 0x03, 0x00, 0x10, 0xA1, 0xA8, 0xBD, 0x01, 0x02, 0x03]

/-- R80: the acknowledgement frame, 13 bytes, and its examples. -/
def Obligations.AckFrameLayout : Prop :=
  (∀ (cfg : Config) (m : Byte) (failed : Bool), ∃ hcsLo hcsHi : Byte,
    ackFrame cfg m failed =
      [cfg.sync0, cfg.sync1, cfg.protoVersion, m, 0x00, 0x01, if failed then 0x02 else 0x00,
        0x00, 0x00, 0x00, 0x00, hcsLo, hcsHi] ∧
    join16 hcsLo hcsHi =
      crc16 [cfg.protoVersion, m, 0x00, 0x01, if failed then 0x02 else 0x00, 0x00, 0x00, 0x00, 0x00]) ∧
  ackFrame Config.vectors 0x00 false =
    [0x0F, 0x0A, 0x01, 0x00, 0x00, 0x01, 0x00, 0x00, 0x00, 0x00, 0x00, 0x0C, 0x41] ∧
  ackFrame Config.vectors 0x00 true =
    [0x0F, 0x0A, 0x01, 0x00, 0x00, 0x01, 0x02, 0x00, 0x00, 0x00, 0x00, 0x75, 0x81]

/-- R152: the synchronizer that takes one byte at a time gives, on every sequence of read answers, what the
rule's procedure `receiveFrame()` gives, and leaves the same answers unread. -/
def Obligations.SynchronizerRefinesProcedure : Prop :=
  ∀ (cfg : Config) (rx : List RxAnswer), syncRun cfg freshScan rx = receiveFrame cfg (rx.length + 1) rx

/-- R160: encode, then decode: the same header fields and payload, whatever follows on the stream. -/
def Obligations.FrameRoundTrip : Prop :=
  ∀ (cfg : Config) (pv mid ptype ver flags : Byte) (p : List Byte) (rest : List RxAnswer),
    p.length ≤ 65535 →
    syncRun cfg freshScan (asBytes (frameBytes cfg pv mid ptype ver flags p) ++ rest) =
      .got (.frame
        { pv := pv, mid := mid, ptype := ptype, ver := ver, flags := flags
          lenLo := lo8 (BitVec.ofNat 16 p.length), lenHi := hi8 (BitVec.ofNat 16 p.length)
          pcsLo := lo8 (crc16 p), pcsHi := hi8 (crc16 p) }
        (if p = [] then none else some p)) rest

/-- R161: a frame is found behind garbage that holds no marker and does not end in half of one. -/
def Obligations.FrameFoundBehindGarbage : Prop :=
  ∀ (cfg : Config) (garbage : List Byte) (pv mid ptype ver flags : Byte) (p : List Byte) (rest : List RxAnswer),
    p.length ≤ 65535 → markerFree cfg garbage = true →
    (cfg.sync0 ≠ cfg.sync1 ∨ garbage.getLast? ≠ some cfg.sync0) →
    syncRun cfg freshScan (asBytes (garbage ++ frameBytes cfg pv mid ptype ver flags p) ++ rest) =
      .got (.frame
        { pv := pv, mid := mid, ptype := ptype, ver := ver, flags := flags
          lenLo := lo8 (BitVec.ofNat 16 p.length), lenHi := hi8 (BitVec.ofNat 16 p.length)
          pcsLo := lo8 (crc16 p), pcsHi := hi8 (crc16 p) }
        (if p = [] then none else some p)) rest

/-! ### Transmission -/

/-- R180: `TXB_CLEAR`. -/
def Obligations.TxbClearEmpties : Prop :=
  (∀ w : Word, opField w = 0x10 → decode w = .instr .txbClear) ∧ encode .txbClear = 0x10000000 ∧
  ∀ s : State,
    exec .txbClear s = .next { s with txb := [], status := 0, result := 0, busy := false, flight := none }

/-- R181: `TXB_PUSH b`, and the full buffer. -/
def Obligations.TxbPushAppends : Prop :=
  (∀ w : Word, opField w = 0x11 → decode w = .instr (.txbPush (w.extractLsb' 16 8))) ∧
  ∀ (b : Byte) (s : State),
    exec (.txbPush b) s = .next
      (if s.txb.length = 65535 then
        { s with status := 6, result := 65535, busy := false, flight := none }
      else
        { s with
          txb := s.txb ++ [b], status := 0, result := BitVec.ofNat 64 (s.txb.length + 1)
          busy := false, flight := none })

/-- R183, R182: a `SEND` of type 0 is refused and changes nothing else; every other takes the whole of `TXB` as its
payload and empties it; then, in one step and before any request, it allocates an id, marks it pending and not
failed, and builds its frame. -/
def Obligations.SendTakesPayloadAndAllocates : Prop :=
  ∀ ptype ver flags : Byte,
    (∀ s : State, exec (.send ptype ver flags) s = .next
      (if ptype = 0x00 then { s with status := 5, result := 0, busy := false, flight := none }
      else { s with txb := [], busy := true, flight := some (.sendAlloc ptype ver flags s.txb) })) ∧
    (∀ (s : State) (p : List Byte), s.Runs (.sendAlloc ptype ver flags p) →
      step s = .next
        { s with
          trkCounter := s.trkCounter + 1
          trkPending := shiftMask s.cfg.w s.trkPending ||| 1
          trkFailed := shiftMask s.cfg.w s.trkFailed
          flight := some
            (let f : SendFrame :=
              { mid := s.trkCounter
                head := encodeHead s.cfg s.cfg.protoVersion s.trkCounter ptype ver flags p
                payload := p }
            if flags.getLsbD 0 then .sendAcked f 1 (.write .head) else .sendOnce f .head)
          turns := s.turns.tail })

/-- R184, R57: a `SEND` without `ACK_REQ`, with every write accepted, completes `OK` with its id after one
frame write: no read, no handler request, and the id stays pending. -/
def Obligations.SendWithoutAckWritesOnce : Prop :=
  ∀ (ptype ver flags : Byte) (s : State) (wr : List WrAnswer),
    s.Ready → ptype ≠ 0x00 → flags.getLsbD 0 = false →
    let f := builtFrame ptype ver flags s.txb s
    s.chan.wr = List.replicate (writeCount f) .ok ++ wr →
    CommandRunsTo (.send ptype ver flags) (1 + writeCount f) s
      { s with
        txb := []
        trkCounter := s.trkCounter + 1
        trkPending := shiftMask s.cfg.w s.trkPending ||| 1
        trkFailed := shiftMask s.cfg.w s.trkFailed
        chan := { s.chan with wr := wr, tx := s.chan.tx ++ f.head ++ f.payload }
        requests := s.requests ++ (frameWrites f).map .write
        status := 0, result := s.trkCounter.zeroExtend 64, busy := false, flight := none }

/-- R189, R56: a channel error on either write of a frame, of a first attempt or a retry, completes the
`SEND` with `CHANNEL_ERROR` and its id; a prefix of the request is on the wire, and nothing else changes: the id
stays as it was, and no further request is made. -/
def Obligations.SendWriteErrorCompletes : Prop :=
  ∀ (s : State) (f : SendFrame) (n : Nat) (p : WritePhase) (k : Nat) (wr : List WrAnswer),
    s.Runs (.sendOnce f p) ∨ s.Runs (.sendAcked f n (.write p)) →
    s.chan.wr = .err k :: wr →
    let bytes := match p with | .head => f.head | .payload => f.payload
    step s = .next
      { s with
        chan := { s.chan with wr := wr, tx := s.chan.tx ++ bytes.take k }
        requests := s.requests ++ [.write bytes]
        status := 1, result := f.mid.zeroExtend 64, busy := false, flight := none, turns := s.turns.tail }

/-- R188, R186, R212: an acknowledged `SEND` whose wait first receives an ack frame of its id, with any header
fields and payload, writes one frame and completes: `PACKET_FAILURE` when the ack carries the failure flag, else
`OK`; its id is resolved. -/
def Obligations.AckedSendResolves : Prop :=
  ∀ (ptype ver flags : Byte) (s : State) (wr : List WrAnswer) (ah ap : List Byte) (rx : List RxAnswer),
    s.Ready → ptype ≠ 0x00 → flags.getLsbD 0 = true →
    validFrame ah ap → (headerOf ah).ptype = 0x00 → (headerOf ah).mid = s.trkCounter →
    let f := builtFrame ptype ver flags s.txb s
    let failed := (headerOf ah).flags.getLsbD 1
    s.chan.wr = List.replicate (writeCount f) .ok ++ wr →
    s.chan.rx = asBytes (wireFrame s.cfg ah ap) ++ rx →
    CommandRunsTo (.send ptype ver flags) (writeCount f + frameSteps ap + 4) s
      { s with
        txb := []
        trkCounter := s.trkCounter + 1
        trkPending := shiftMask s.cfg.w s.trkPending
        trkFailed := shiftMask s.cfg.w s.trkFailed ||| (if failed then 1 else 0)
        chan := { rx := rx, wr := wr, tx := s.chan.tx ++ f.head ++ f.payload }
        requests := s.requests ++ (frameWrites f).map .write ++ List.replicate (13 + ap.length) .read
        status := if failed then 3 else 0
        result := s.trkCounter.zeroExtend 64, busy := false, flight := none }

/-- R192, R185, R187: a wait that ends with a channel error, then an ack: two identical frame writes, when
`MAX_ATTEMPTS >= 2`; a successful return, or `PACKET_FAILURE` when the ack carries the failure flag (R188). -/
def Obligations.RetryWritesTheSameFrame : Prop :=
  ∀ (ptype ver flags : Byte) (s : State) (wr : List WrAnswer) (ah ap : List Byte) (rx : List RxAnswer),
    s.Ready → ptype ≠ 0x00 → flags.getLsbD 0 = true → 2 ≤ s.cfg.maxAttempts →
    validFrame ah ap → (headerOf ah).ptype = 0x00 → (headerOf ah).mid = s.trkCounter →
    let f := builtFrame ptype ver flags s.txb s
    let failed := (headerOf ah).flags.getLsbD 1
    s.chan.wr = List.replicate (writeCount f + writeCount f) .ok ++ wr →
    s.chan.rx = .err :: asBytes (wireFrame s.cfg ah ap) ++ rx →
    CommandRunsTo (.send ptype ver flags) (writeCount f + writeCount f + frameSteps ap + 6) s
      { s with
        txb := []
        trkCounter := s.trkCounter + 1
        trkPending := shiftMask s.cfg.w s.trkPending
        trkFailed := shiftMask s.cfg.w s.trkFailed ||| (if failed then 1 else 0)
        chan := { rx := rx, wr := wr, tx := s.chan.tx ++ (f.head ++ f.payload) ++ (f.head ++ f.payload) }
        requests := s.requests ++ (frameWrites f).map .write ++ [.read] ++ (frameWrites f).map .write ++
          List.replicate (13 + ap.length) .read
        status := if failed then 3 else 0
        result := s.trkCounter.zeroExtend 64, busy := false, flight := none }

/-- R185, R192: when every wait ends with a channel error, an acknowledged `SEND` completes with `TIMEOUT`
after exactly `MAX_ATTEMPTS` frame writes, its id still pending. -/
def Obligations.ExhaustedSendTimesOut : Prop :=
  ∀ (ptype ver flags : Byte) (s : State) (wr : List WrAnswer) (rx : List RxAnswer),
    s.Ready → ptype ≠ 0x00 → flags.getLsbD 0 = true →
    let f := builtFrame ptype ver flags s.txb s
    let m := s.cfg.maxAttempts
    s.chan.wr = List.replicate (m * writeCount f) .ok ++ wr →
    s.chan.rx = List.replicate m .err ++ rx →
    CommandRunsTo (.send ptype ver flags) (1 + m * (writeCount f + 2)) s
      { s with
        txb := []
        trkCounter := s.trkCounter + 1
        trkPending := shiftMask s.cfg.w s.trkPending ||| 1
        trkFailed := shiftMask s.cfg.w s.trkFailed
        chan := { rx := rx, wr := wr, tx := s.chan.tx ++ (List.replicate m (f.head ++ f.payload)).flatten }
        requests := s.requests ++ (List.replicate m ((frameWrites f).map Request.write ++ [.read])).flatten
        status := 2, result := s.trkCounter.zeroExtend 64, busy := false, flight := none }

/-- R187, R57: while an acknowledged `SEND` is in flight its frame, id and counter never change, and an attempt is
followed by itself or the next. An attempt writes that frame's head, then, when the payload is not empty, that
frame's payload, then waits. -/
def Obligations.RetransmissionIsIdentical : Prop :=
  ∀ (s t : State) (f : SendFrame) (n : Nat) (p : SendPhase),
    s.busy = true → s.nextTurn ≠ .host .reset → s.flight = some (.sendAcked f n p) → step s = .next t →
    t.trkCounter = s.trkCounter ∧
    (t.flight = none ∨ ∃ n' p', t.flight = some (.sendAcked f n' p') ∧
      (n' = n ∨ (n' = n + 1 ∧ n ≠ s.cfg.maxAttempts ∧ p' = .write .head))) ∧
    (∀ w : WritePhase, p = .write w → s.nextTurn = .block →
      (s.chan.wr = [] ∧ t.requests = s.requests ∧ t.flight = s.flight) ∨
      (∃ a wr, s.chan.wr = a :: wr ∧
        t.requests = s.requests ++ [.write (match w with | .head => f.head | .payload => f.payload)] ∧
        (a = .ok →
          t.flight = some (.sendAcked f n
            (match w with
            | .head => if f.payload = [] then .waitQuery else .write .payload
            | .payload => .waitQuery)))))

/-- R186, R304: how a wait goes on when its receive cycle ends: a channel error is a failed attempt, a
processing error completes the `SEND`, every other end continues the wait. -/
def Obligations.WaitContinuesOrEnds : Prop :=
  ∀ (s t : State) (f : SendFrame) (n : Nat) (c : RxCycle) (r : CycleResult),
    s.Runs (.sendAcked f n (.waitReceive c)) → cycleStep c { s with turns := s.turns.tail } = .done r t →
    step s = .next
      (match r with
      | .chanErr =>
        if n = t.cfg.maxAttempts then
          { t with status := 2, result := f.mid.zeroExtend 64, busy := false, flight := none }
        else { t with busy := true, flight := some (.sendAcked f (n + 1) (.write .head)) }
      | .procErr _ _ => { t with status := 4, result := f.mid.zeroExtend 64, busy := false, flight := none }
      | .noFrame _ => { t with busy := true, flight := some (.sendAcked f n .waitQuery) }
      | .ack _ => { t with busy := true, flight := some (.sendAcked f n .waitQuery) }
      | .delivered _ _ => { t with busy := true, flight := some (.sendAcked f n .waitQuery) })

/-- R190: a pending query out of the window completes the `SEND` with `TIMEOUT` at once; and this branch is
not reachable: in a state of the invariant the id, once allocated, is at distance 1. -/
def Obligations.WaitEvictionUnreachable : Prop :=
  (∀ (s : State) (f : SendFrame) (n : Nat),
    s.Runs (.sendAcked f n .waitQuery) → s.queryPending f.mid = .outOfWindow →
    step s = .next
      { s with status := 2, result := f.mid.zeroExtend 64, busy := false, flight := none, turns := s.turns.tail }) ∧
  (∀ (s : State) (f : SendFrame) (n : Nat) (p : SendPhase),
    s.Inv → s.flight = some (.sendAcked f n p) →
    s.dist f.mid = 1 ∧ s.queryPending f.mid ≠ .outOfWindow ∧ s.queryFailed f.mid ≠ .outOfWindow)

/-! ### Reception -/

/-- R210: `RECEIVE` begins one receive cycle with a fresh scan; nothing else changes before its first read. -/
def Obligations.ReceiveStartsFreshCycle : Prop :=
  (∀ w : Word, opField w = 0x21 → decode w = .instr .receive) ∧ encode .receive = 0x21000000 ∧
  ∀ s : State,
    exec .receive s = .next { s with busy := true, flight := some (.receive (.sync (.scan none))) }

/-- R216: the layout of `RESULT`. -/
def Obligations.ReceiveResultLayout : Prop :=
  ∀ (o : BitVec 2) (h : Header) (a : Bool),
    let r := rxResult o h a
    r.extractLsb' 0 2 = o ∧ r.getLsbD 2 = a ∧ r.extractLsb' 3 5 = 0 ∧ r.extractLsb' 8 8 = h.mid ∧
    r.extractLsb' 16 8 = h.ptype ∧ r.extractLsb' 24 8 = h.ver ∧ r.extractLsb' 32 8 = h.flags ∧
    r.extractLsb' 40 8 = h.pv ∧ r.extractLsb' 48 16 = join16 h.lenLo h.lenHi

/-- R212, R157: an ack frame updates the tracker (clear pending, failed from bit 1, ignored outside the window)
and nothing else: no handler request, no write, whatever its other flags, versions and payload, and whatever
its payload checksum where it has no payload. -/
def Obligations.ReceiveAppliesAck : Prop :=
  ∀ (s : State) (h p : List Byte) (rx : List RxAnswer),
    s.Ready → validFrame h p → (headerOf h).ptype = 0x00 →
    s.chan.rx = asBytes (wireFrame s.cfg h p) ++ rx →
    let marked := s.markId (headerOf h).mid false ((headerOf h).flags.getLsbD 1)
    CommandRunsTo .receive (frameSteps p) s
      { s with
        trkPending := marked.trkPending
        trkFailed := marked.trkFailed
        chan := { s.chan with rx := rx }
        requests := s.requests ++ List.replicate (13 + p.length) .read
        status := 0, result := rxResult 1 (headerOf h) false, busy := false, flight := none }

/-- R213 to R215, R157: a normal frame, with any payload checksum where it has no payload, is created and, when
that succeeds, processed; an ack with the same id is written exactly when it asked for one, with the failure flag
when creation or processing failed; then a failure completes with `PROCESSING_ERROR`, else `OK`. `process` is none
where `Create` answers `Fail`. -/
def Obligations.ReceiveDispatchesFrame : Prop :=
  ∀ (s : State) (hb p : List Byte) (rx : List RxAnswer)
    (process : Option HdAnswer) (answers : List HdAnswer) (wr : List WrAnswer),
    let h := headerOf hb
    s.Ready → validFrame hb p → h.ptype ≠ 0x00 →
    s.chan.rx = asBytes (wireFrame s.cfg hb p) ++ rx →
    s.handler.answers = (match process with | none => [.fail] | some a => [.ok, a]) ++ answers →
    s.chan.wr = (if h.flags.getLsbD 0 then [.ok] else []) ++ wr →
    let failed : Bool := process != some .ok
    let ack : List Byte := if h.flags.getLsbD 0 then ackFrame s.cfg h.mid failed else []
    CommandRunsTo .receive
      (frameSteps p + (match process with | none => 1 | some _ => 2) + (if h.flags.getLsbD 0 then 1 else 0)) s
      { s with
        chan := { rx := rx, wr := wr, tx := s.chan.tx ++ ack }
        handler := { answers := answers }
        requests := s.requests ++ List.replicate (13 + p.length) .read ++ [.create h.pv h.ptype h.ver h.flags] ++
          (match process with | none => [] | some _ => [.process (if p = [] then none else some p)]) ++
          (if h.flags.getLsbD 0 then [.write ack] else [])
        status := if failed then 4 else 0
        result := rxResult 2 h (h.flags.getLsbD 0)
        busy := false, flight := none }

/-- R311, R210, R301: with an ack request, the ack is written before the command completes, its failure flag set
when the dispatch failed; if that write answers `ChanErr` the status is `CHANNEL_ERROR` with result 0, whether the
dispatch failed or not; else it is `PROCESSING_ERROR` when the dispatch failed, and `OK` when it did not. -/
def Obligations.AckWriteErrorWins : Prop :=
  ∀ (s : State) (h : Header) (failed : Bool) (a : WrAnswer) (wr : List WrAnswer),
    s.Runs (.receive (.ackWrite h failed)) → s.chan.wr = a :: wr →
    step s = .next
      { s with
        chan := { s.chan with
          wr := wr
          tx := s.chan.tx ++ (match a with
            | .ok => ackFrame s.cfg h.mid failed
            | .err k => (ackFrame s.cfg h.mid failed).take k) }
        requests := s.requests ++ [.write (ackFrame s.cfg h.mid failed)]
        status := (match a with | .ok => if failed then 4 else 0 | .err _ => 1)
        result := (match a with | .ok => rxResult 2 h true | .err _ => 0)
        busy := false, flight := none, turns := s.turns.tail }

/-- R158, R157: a payload that does not match its declared checksum ends the cycle `OK` having processed
nothing, after exactly the declared bytes: no tracker change, no handler request, no write, for ack and normal
frames alike. -/
def Obligations.PayloadMismatchProcessesNothing : Prop :=
  ∀ (s : State) (h p : List Byte) (rx : List RxAnswer),
    s.Ready → h.length = 9 → headerLen (headerOf h) ≠ 0 → p.length = (headerLen (headerOf h)).toNat →
    crc16 p ≠ headerPcs (headerOf h) →
    s.chan.rx = asBytes (wireFrame s.cfg h p) ++ rx →
    CommandRunsTo .receive (frameSteps p) s
      { s with
        chan := { s.chan with rx := rx }
        requests := s.requests ++ List.replicate (13 + p.length) .read
        status := 0, result := rxResult 0 (headerOf h) false, busy := false, flight := none }

/-- R156: a header-checksum mismatch discards the candidate, 13 bytes with its marker, and resumes scanning
with an empty window in the same cycle of the same command, changing nothing else. -/
def Obligations.HeaderMismatchRescans : Prop :=
  ∀ (s : State) (f : Flight) (h : List Byte) (c0 c1 : Byte) (rx : List RxAnswer),
    f.inCycle freshCycle → s.Runs f → s.turns = [] →
    h.length = 9 → join16 c0 c1 ≠ crc16 h →
    s.chan.rx = asBytes ([s.cfg.sync0, s.cfg.sync1] ++ h ++ [c0, c1]) ++ rx →
    RunsTo 14 s
      { s with chan := { s.chan with rx := rx }, requests := s.requests ++ List.replicate 13 .read }

/-- R159, R210: a read that answers `ChanErr` completes a `RECEIVE` with `CHANNEL_ERROR` and result 0, in
whatever phase the synchronizer reads; the partial frame is discarded and nothing else changes. -/
def Obligations.ReadErrorEndsReceive : Prop :=
  ∀ (s : State) (y : Sync) (rx : List RxAnswer),
    s.Runs (.receive (.sync y)) → syncCheck y = none → s.chan.rx = .err :: rx →
    step s = .next
      { s with
        chan := { s.chan with rx := rx }, requests := s.requests ++ [.read]
        status := 1, result := 0, busy := false, flight := none, turns := s.turns.tail }

/-! ### Rules over every step -/

/-- R335, R26: `STATUS` and `RESULT` are the previous command's until `BUSY` falls, and a command offered while
`BUSY = 1` waits on the port, behind those offered before it. -/
def Obligations.BusyBlockKeepsStatusAndPort : Prop :=
  ∀ s t : State, step s = .next t →
    (t.busy = true → t.status = s.status ∧ t.result = s.result) ∧
    (s.busy = true → t.host.port = s.host.port ∨
      ∃ w, s.nextTurn = .host (.offer w) ∧ t.host.port = s.host.port ++ [w])

/-- R22, R115: `CRC` is written only by `CRC_INIT` and `CRC_BYTE`, and a command in flight neither reads nor
writes it. -/
def Obligations.StandaloneCrcUntouched : Prop :=
  (∀ (i : Instr) (s t : State), i.opcode ≠ .crcInit → i.opcode ≠ .crcByte → exec i s = .next t → t.crc = s.crc) ∧
  (∀ (s t : State) (c : Half), s.busy = true → s.nextTurn ≠ .host .reset → step s = .next t →
    t.crc = s.crc ∧ step { s with crc := c } = .next { t with crc := c })

/-- R240: the counter advances, by 1 modulo 256, only where `TRK_ALLOC` is accepted and in the `ALLOC` step of a
`SEND`; and that phase is entered only where a `SEND` of a type other than 0 is accepted. A reset apart. -/
def Obligations.CounterAdvancesByAllocationOnly : Prop :=
  ∀ s t : State, step s = .next t →
    (s.nextTurn ≠ .host .reset → t.trkCounter = s.trkCounter ∨
      (t.trkCounter = s.trkCounter + 1 ∧ s.nextTurn = .block ∧
        ((s.busy = false ∧ ∃ w rest, s.host.port = w :: rest ∧ decode w = .instr .trkAlloc) ∨
          (s.busy = true ∧ ∃ ptype ver flags p, s.flight = some (.sendAlloc ptype ver flags p))))) ∧
    (∀ ptype ver flags p, t.flight = some (.sendAlloc ptype ver flags p) →
      s.flight = some (.sendAlloc ptype ver flags p) ∨
      (s.busy = false ∧ ptype ≠ 0x00 ∧ p = s.txb ∧
        ∃ w rest, s.host.port = w :: rest ∧ decode w = .instr (.send ptype ver flags)))

/-- R211, R212, R62: a step of a command in flight changes, of the block's registers, only `STATUS`, `RESULT` and
`BUSY`; the counter and the masks by the allocation in the `ALLOC` step of a `SEND`; and the masks by the mark of the
ack frame the synchronizer has just checked, its id not pending and failed as its flag says. In every other
step the counter and the masks are unchanged. -/
def Obligations.CommandInFlightChangesOnlyMarks : Prop :=
  ∀ s t : State, s.busy = true → s.nextTurn = .block → step s = .next t →
    t.crc = s.crc ∧ t.txb = s.txb ∧
    (∀ ptype ver flags p, s.flight = some (.sendAlloc ptype ver flags p) →
      t.trkCounter = s.trkCounter + 1 ∧ t.trkPending = shiftMask s.cfg.w s.trkPending ||| 1 ∧
      t.trkFailed = shiftMask s.cfg.w s.trkFailed) ∧
    (∀ h : Header, s.ackDue h →
      t.trkCounter = s.trkCounter ∧ t.trkPending = (s.markId h.mid false (h.flags.getLsbD 1)).trkPending ∧
      t.trkFailed = (s.markId h.mid false (h.flags.getLsbD 1)).trkFailed) ∧
    ((∀ ptype ver flags p, s.flight ≠ some (.sendAlloc ptype ver flags p)) → (∀ h : Header, ¬ s.ackDue h) →
      t.trkCounter = s.trkCounter ∧ t.trkPending = s.trkPending ∧ t.trkFailed = s.trkFailed)

/-- R21: no step changes a parameter, reset included, and `REG_READ` returns them. -/
def Obligations.ParametersAreFixed : Prop :=
  (∀ s t : State, step s = .next t → t.cfg = s.cfg) ∧
  (∀ s : State, s.blockReset.cfg = s.cfg) ∧
  ∀ s : State,
    let answers := fun (idx : Byte) (v : Long) =>
      exec (.regRead idx) s = .next { s with status := 0, result := v, busy := false, flight := none }
    answers 0x05 (s.cfg.protoVersion.zeroExtend 64) ∧
    answers 0x06 (BitVec.ofNat 64 s.cfg.w.width) ∧
    answers 0x07 (BitVec.ofNat 64 s.cfg.maxAttempts) ∧
    answers 0x08 ((join16 s.cfg.sync0 s.cfg.sync1).zeroExtend 64)

/-- R54, R55, R61, R36: every step makes at most one request; the block's takes one answer from the head of the
receive stream, which is never put back; what is on the transmit stream stays there; a step of another agent
makes no request. -/
def Obligations.OneRequestAtATime : Prop :=
  ∀ s t : State, step s = .next t →
    (s.nextTurn ≠ .block → t.requests = s.requests ∧ t.chan.tx = s.chan.tx) ∧
    (s.nextTurn = .block →
      (t.requests = s.requests ∧ t.chan = s.chan ∧ t.handler = s.handler) ∨
      (∃ a, s.chan.rx = a :: t.chan.rx ∧ t.requests = s.requests ++ [.read] ∧
        t.chan.wr = s.chan.wr ∧ t.chan.tx = s.chan.tx ∧ t.handler = s.handler) ∨
      (∃ a bytes, s.chan.wr = a :: t.chan.wr ∧ t.requests = s.requests ++ [.write bytes] ∧
        t.chan.tx = s.chan.tx ++ (match a with | .ok => bytes | .err k => bytes.take k) ∧
        t.chan.rx = s.chan.rx ∧ t.handler = s.handler) ∨
      (∃ a r, s.handler.answers = a :: t.handler.answers ∧ t.requests = s.requests ++ [r] ∧ t.chan = s.chan ∧
        ((∃ pv ptype ver flags, r = .create pv ptype ver flags) ∨ ∃ p, r = .process p)))

/-- R320, R55, R56, R218, R337, R338: on its turn, an idle block with nothing offered changes no state, and a
block whose request is not answered holds, for every phase that asks an agent, in a `RECEIVE` and in the wait of a
`SEND` alike. -/
def Obligations.UnansweredBlockHolds : Prop :=
  ∀ s : State, s.cfg.wf = true → s.nextTurn = .block →
    (s.busy = false ∧ s.host.port = []) ∨
    (s.busy = true ∧ s.chan.rx = [] ∧
      ∃ f y, s.flight = some f ∧ f.inCycle (.sync y) ∧ syncCheck y = none) ∨
    (s.busy = true ∧ s.chan.wr = [] ∧
      ((∃ f p, s.flight = some (.sendOnce f p)) ∨ (∃ f n p, s.flight = some (.sendAcked f n (.write p))) ∨
        ∃ f h failed, s.flight = some f ∧ f.inCycle (.ackWrite h failed))) ∨
    (s.busy = true ∧ s.handler.answers = [] ∧
      ∃ f h p, s.flight = some f ∧ (f.inCycle (.create h p) ∨ f.inCycle (.process h p))) →
    step s = .next { s with turns := s.turns.tail }

/-- R83: the pseudo-instructions expand as the rule says, and after `CRC_BUF` the low 16 bits of `RESULT` are
the checksum of its bytes. -/
def Obligations.PseudoInstructionsExpand : Prop :=
  (∀ bytes : List Byte, (AsmLine.crcBuf bytes).expand = .crcInit :: bytes.map .crcByte) ∧
  (∀ (t v f : Byte) (bytes : List Byte),
    (AsmLine.sendP t v f bytes).expand = .txbClear :: bytes.map .txbPush ++ [.send t v f]) ∧
  (∀ m : Byte, (AsmLine.ackSim m).expand = [.trkMark m false false] ∧
    (AsmLine.failSim m).expand = [.trkMark m false true]) ∧
  (∀ (bytes : List Byte) (s : State) (rest : List Word), s.Ready →
    s.host.port = assembleLines [.crcBuf bytes] ++ rest →
    RunsTo (bytes.length + 1) s
      { s with
        crc := crc16 bytes, host := { s.host with port := rest }
        status := 0, result := (crc16 bytes).zeroExtend 64 })

/-- R83, R183: `SENDP` fills the payload buffer with its bytes and sends them: the frame in flight carries
them, in order, as its payload. -/
def Obligations.SendPCarriesItsBytes : Prop :=
  ∀ (t v f : Byte) (bytes : List Byte) (s : State) (rest : List Word), s.Ready → t ≠ 0x00 →
    bytes.length ≤ 65535 → s.host.port = assembleLines [.sendP t v f bytes] ++ rest →
    ∃ u, RunsTo (bytes.length + 3) s u ∧ u.txb = [] ∧ u.host.port = rest ∧ u.busy = true ∧
      u.trkCounter = s.trkCounter + 1 ∧
      u.flight = some (firstFlight f
        { mid := s.trkCounter
          head := encodeHead s.cfg s.cfg.protoVersion s.trkCounter t v f bytes
          payload := bytes })

/-! ### The other agents -/

/-- R11, R26, R55, R56, R218, R309: each agent has its own steps, and the block's step is no other's. `HOST`
offers a command behind those offered, and reads `STATUS` and `RESULT` once `BUSY` is 0; `CHAN` and `HANDLER` make
an answer ready behind those ready; none of these changes anything else. And no answer or command comes too
late: if the block does not hold, it and the other agent may take their steps in either order (a reset and the
reading of a completion apart). Whose turn it is is the model's own field (log entry 11). What a reading gives
when no completion is new (right after reset, or a second time) is the model's own choice (log entry 14). -/
def Obligations.AgentsTakeTheirOwnSteps : Prop :=
  (∀ s : State, s.cfg.wf = true →
    (∀ w : Word, s.nextTurn = .host (.offer w) →
      step s = .next { s with host := { s.host with port := s.host.port ++ [w] }, turns := s.turns.tail }) ∧
    (s.nextTurn = .host .readCompletion →
      step s = .next
        { s with
          host := { s.host with
            completions := s.host.completions ++
              (if s.busy then [] else [{ status := s.status, result := s.result }]) }
          turns := s.turns.tail }) ∧
    (∀ a : RxAnswer, s.nextTurn = .chan (.answerRead a) →
      step s = .next { s with chan := { s.chan with rx := s.chan.rx ++ [a] }, turns := s.turns.tail }) ∧
    (∀ a : WrAnswer, s.nextTurn = .chan (.answerWrite a) →
      step s = .next { s with chan := { s.chan with wr := s.chan.wr ++ [a] }, turns := s.turns.tail }) ∧
    (∀ a : HdAnswer, s.nextTurn = .handler a →
      step s = .next { s with handler := { answers := s.handler.answers ++ [a] }, turns := s.turns.tail })) ∧
  (∀ (s t : State) (a : Turn) (rest : List Turn),
    a ≠ .host .reset → a ≠ .host .readCompletion →
    step { s with turns := [] } = .next t → t ≠ { s with turns := [] } →
    ∃ u, RunsTo 2 { s with turns := .block :: a :: rest } u ∧ RunsTo 2 { s with turns := a :: .block :: rest } u)
end

