-- ==== Sys2Proof/Laws/Codec.lean ====
section
/-! SUPPORT. The checksum over appended bytes, the length of a frame's parts, and what one byte and one check do
to the synchronizer (40_crc.md R112, 42_frame_codec.md R150, R152). -/

namespace Sys2Proof.Machine

@[simp] theorem crcFrom_append (c : Half) (l m : List Byte) :
    crcFrom c (l ++ m) = crcFrom (crcFrom c l) m := by
  induction l generalizing c with
  | nil => rfl
  | cons b l ih => exact ih (crcStep c b)

/-- The working register follows the bytes read (R112). -/
theorem crc16_snoc (l : List Byte) (b : Byte) : crc16 (l ++ [b]) = crcStep (crc16 l) b := by
  simp [crc16, crcFrom]

@[simp] theorem crc16_nil : crc16 [] = 0 := rfl

@[simp] theorem encodeHeader_length (pv mid ptype ver flags : Byte) (p : List Byte) :
    (encodeHeader pv mid ptype ver flags p).length = 9 := rfl

@[simp] theorem encodeHead_length (cfg : Config) (pv mid ptype ver flags : Byte) (p : List Byte) :
    (encodeHead cfg pv mid ptype ver flags p).length = 13 := rfl

@[simp] theorem ackFrame_length (cfg : Config) (m : Byte) (failed : Bool) :
    (ackFrame cfg m failed).length = 13 := rfl

theorem headerLen_pos {h : Header} (hne : headerLen h ≠ 0) : 0 < (headerLen h).toNat :=
  Nat.pos_of_ne_zero fun e => hne (BitVec.eq_of_toNat_eq e)

/-- R152: a byte read while no check is due leaves a legal synchronizer. -/
theorem syncByte_wf (cfg : Config) {y : Sync} (b : Byte) (hy : y.wf) (hc : syncCheck y = none) :
    (syncByte cfg y b).wf := by
  cases y with
  | scan prev =>
    show (scanByte cfg prev b).wf
    unfold scanByte
    split
    · exact ⟨by decide, rfl⟩
    · exact True.intro
  | header h crc =>
    obtain ⟨hlen, rfl⟩ := hy
    show (headerByte h (crc16 h) b).wf
    unfold headerByte
    rw [← crc16_snoc]
    split
    · exact ⟨‹_›, rfl⟩
    · refine ⟨?_, by decide, rfl⟩
      simp only [List.length_append, List.length_cons, List.length_nil] at *
      omega
  | hcs h c crc =>
    obtain ⟨hlen, -, rfl⟩ := hy
    refine ⟨hlen, ?_, rfl⟩
    match c, hc with
    | [], _ => simp
    | [_], _ => simp
  | payload h p crc =>
    obtain ⟨hne, -, rfl⟩ := hy
    have hlt : p.length < (headerLen h).toNat := by
      by_contra hge
      simp [syncCheck, hge] at hc
    refine ⟨hne, ?_, (crc16_snoc p b).symm⟩
    simpa using hlt

/-- What a check of the synchronizer leaves when what it held was legal: a legal hidden state, or a frame
whose payload is valid. -/
def SyncStep.wf : SyncStep → Prop
  | .more y => y.wf
  | .done (.frame h p) => payloadValid h p
  | .done (.payloadBad _) => True

theorem headerCheck_wf (h : List Byte) (lo hi : Byte) (crc : Half) : (headerCheck h lo hi crc).wf := by
  unfold headerCheck
  split
  · split
    · assumption
    · exact ⟨‹_›, Nat.zero_le _, rfl⟩
  · exact True.intro

/-- R156, R157: every check leaves a legal synchronizer or a valid frame. -/
theorem syncCheck_wf {y : Sync} {c : SyncStep} (hy : y.wf) (hc : syncCheck y = some c) : c.wf := by
  cases y with
  | scan prev => cases hc
  | header h crc => cases hc
  | hcs h c crc =>
    match c, hc with
    | lo :: hi :: _, hc =>
      cases hc
      exact headerCheck_wf h lo hi crc
  | payload h p crc =>
    obtain ⟨hne, hle, rfl⟩ := hy
    simp only [syncCheck] at hc
    split at hc
    · cases hc
    · cases hc
      have heq : p.length = (headerLen h).toNat := by omega
      unfold payloadCheck
      split
      · refine ⟨?_, heq, ‹_›⟩
        rintro rfl
        exact absurd heq (Nat.ne_of_lt (headerLen_pos hne))
      · exact True.intro

end Sys2Proof.Machine
end

