-- ==== Sys2Proof/Laws/State.lean ====
section
/-! SUPPORT. What each update of the state leaves in each field, one lemma a field, so that no later
proof unfolds a record update. -/

namespace Sys2Proof.Machine

namespace State

/-! ### Completing a command (00_scope.md R13) -/

@[simp] theorem complete_cfg (s : State) (st : Status) (r : Long) : (s.complete st r).cfg = s.cfg := rfl
@[simp] theorem complete_crc (s : State) (st : Status) (r : Long) : (s.complete st r).crc = s.crc := rfl
@[simp] theorem complete_txb (s : State) (st : Status) (r : Long) : (s.complete st r).txb = s.txb := rfl
@[simp] theorem complete_trkCounter (s : State) (st : Status) (r : Long) : (s.complete st r).trkCounter = s.trkCounter := rfl
@[simp] theorem complete_trkPending (s : State) (st : Status) (r : Long) : (s.complete st r).trkPending = s.trkPending := rfl
@[simp] theorem complete_trkFailed (s : State) (st : Status) (r : Long) : (s.complete st r).trkFailed = s.trkFailed := rfl
@[simp] theorem complete_status (s : State) (st : Status) (r : Long) : (s.complete st r).status = st.code := rfl
@[simp] theorem complete_result (s : State) (st : Status) (r : Long) : (s.complete st r).result = r := rfl
@[simp] theorem complete_busy (s : State) (st : Status) (r : Long) : (s.complete st r).busy = false := rfl
@[simp] theorem complete_flight (s : State) (st : Status) (r : Long) : (s.complete st r).flight = none := rfl
@[simp] theorem complete_chan (s : State) (st : Status) (r : Long) : (s.complete st r).chan = s.chan := rfl
@[simp] theorem complete_handler (s : State) (st : Status) (r : Long) : (s.complete st r).handler = s.handler := rfl
@[simp] theorem complete_host (s : State) (st : Status) (r : Long) : (s.complete st r).host = s.host := rfl
@[simp] theorem complete_turns (s : State) (st : Status) (r : Long) : (s.complete st r).turns = s.turns := rfl
@[simp] theorem complete_requests (s : State) (st : Status) (r : Long) : (s.complete st r).requests = s.requests := rfl

/-! ### A command in flight (10_state.md R26) -/

@[simp] theorem inFlight_cfg (s : State) (f : Flight) : (s.inFlight f).cfg = s.cfg := rfl
@[simp] theorem inFlight_crc (s : State) (f : Flight) : (s.inFlight f).crc = s.crc := rfl
@[simp] theorem inFlight_txb (s : State) (f : Flight) : (s.inFlight f).txb = s.txb := rfl
@[simp] theorem inFlight_trkCounter (s : State) (f : Flight) : (s.inFlight f).trkCounter = s.trkCounter := rfl
@[simp] theorem inFlight_trkPending (s : State) (f : Flight) : (s.inFlight f).trkPending = s.trkPending := rfl
@[simp] theorem inFlight_trkFailed (s : State) (f : Flight) : (s.inFlight f).trkFailed = s.trkFailed := rfl
@[simp] theorem inFlight_status (s : State) (f : Flight) : (s.inFlight f).status = s.status := rfl
@[simp] theorem inFlight_result (s : State) (f : Flight) : (s.inFlight f).result = s.result := rfl
@[simp] theorem inFlight_busy (s : State) (f : Flight) : (s.inFlight f).busy = true := rfl
@[simp] theorem inFlight_flight (s : State) (f : Flight) : (s.inFlight f).flight = some f := rfl
@[simp] theorem inFlight_chan (s : State) (f : Flight) : (s.inFlight f).chan = s.chan := rfl
@[simp] theorem inFlight_handler (s : State) (f : Flight) : (s.inFlight f).handler = s.handler := rfl
@[simp] theorem inFlight_host (s : State) (f : Flight) : (s.inFlight f).host = s.host := rfl
@[simp] theorem inFlight_turns (s : State) (f : Flight) : (s.inFlight f).turns = s.turns := rfl
@[simp] theorem inFlight_requests (s : State) (f : Flight) : (s.inFlight f).requests = s.requests := rfl

/-! ### Reset (70_reset_and_hazards.md R330 to R332) -/

@[simp] theorem blockReset_cfg (s : State) : (s.blockReset).cfg = s.cfg := rfl
@[simp] theorem blockReset_crc (s : State) : (s.blockReset).crc = 0 := rfl
@[simp] theorem blockReset_txb (s : State) : (s.blockReset).txb = [] := rfl
@[simp] theorem blockReset_trkCounter (s : State) : (s.blockReset).trkCounter = 0 := rfl
@[simp] theorem blockReset_trkPending (s : State) : (s.blockReset).trkPending = 0 := rfl
@[simp] theorem blockReset_trkFailed (s : State) : (s.blockReset).trkFailed = 0 := rfl
@[simp] theorem blockReset_status (s : State) : (s.blockReset).status = 0 := rfl
@[simp] theorem blockReset_result (s : State) : (s.blockReset).result = 0 := rfl
@[simp] theorem blockReset_busy (s : State) : (s.blockReset).busy = false := rfl
@[simp] theorem blockReset_flight (s : State) : (s.blockReset).flight = none := rfl
@[simp] theorem blockReset_chan (s : State) : (s.blockReset).chan = s.chan := rfl
@[simp] theorem blockReset_handler (s : State) : (s.blockReset).handler = s.handler := rfl
@[simp] theorem blockReset_host (s : State) : (s.blockReset).host = s.host := rfl
@[simp] theorem blockReset_turns (s : State) : (s.blockReset).turns = s.turns := rfl
@[simp] theorem blockReset_requests (s : State) : (s.blockReset).requests = s.requests := rfl

/-! ### A turn taken -/

@[simp] theorem passTurn_cfg (s : State) : (s.passTurn).cfg = s.cfg := rfl
@[simp] theorem passTurn_crc (s : State) : (s.passTurn).crc = s.crc := rfl
@[simp] theorem passTurn_txb (s : State) : (s.passTurn).txb = s.txb := rfl
@[simp] theorem passTurn_trkCounter (s : State) : (s.passTurn).trkCounter = s.trkCounter := rfl
@[simp] theorem passTurn_trkPending (s : State) : (s.passTurn).trkPending = s.trkPending := rfl
@[simp] theorem passTurn_trkFailed (s : State) : (s.passTurn).trkFailed = s.trkFailed := rfl
@[simp] theorem passTurn_status (s : State) : (s.passTurn).status = s.status := rfl
@[simp] theorem passTurn_result (s : State) : (s.passTurn).result = s.result := rfl
@[simp] theorem passTurn_busy (s : State) : (s.passTurn).busy = s.busy := rfl
@[simp] theorem passTurn_flight (s : State) : (s.passTurn).flight = s.flight := rfl
@[simp] theorem passTurn_chan (s : State) : (s.passTurn).chan = s.chan := rfl
@[simp] theorem passTurn_handler (s : State) : (s.passTurn).handler = s.handler := rfl
@[simp] theorem passTurn_host (s : State) : (s.passTurn).host = s.host := rfl
@[simp] theorem passTurn_requests (s : State) : (s.passTurn).requests = s.requests := rfl
@[simp] theorem passTurn_turns (s : State) : (s.passTurn).turns = s.turns.tail := rfl

/-! ### The record of requests -/

@[simp] theorem record_cfg (s : State) (r : Request) : (s.record r).cfg = s.cfg := rfl
@[simp] theorem record_crc (s : State) (r : Request) : (s.record r).crc = s.crc := rfl
@[simp] theorem record_txb (s : State) (r : Request) : (s.record r).txb = s.txb := rfl
@[simp] theorem record_trkCounter (s : State) (r : Request) : (s.record r).trkCounter = s.trkCounter := rfl
@[simp] theorem record_trkPending (s : State) (r : Request) : (s.record r).trkPending = s.trkPending := rfl
@[simp] theorem record_trkFailed (s : State) (r : Request) : (s.record r).trkFailed = s.trkFailed := rfl
@[simp] theorem record_status (s : State) (r : Request) : (s.record r).status = s.status := rfl
@[simp] theorem record_result (s : State) (r : Request) : (s.record r).result = s.result := rfl
@[simp] theorem record_busy (s : State) (r : Request) : (s.record r).busy = s.busy := rfl
@[simp] theorem record_flight (s : State) (r : Request) : (s.record r).flight = s.flight := rfl
@[simp] theorem record_chan (s : State) (r : Request) : (s.record r).chan = s.chan := rfl
@[simp] theorem record_handler (s : State) (r : Request) : (s.record r).handler = s.handler := rfl
@[simp] theorem record_host (s : State) (r : Request) : (s.record r).host = s.host := rfl
@[simp] theorem record_turns (s : State) (r : Request) : (s.record r).turns = s.turns := rfl
@[simp] theorem record_requests (s : State) (r : Request) : (s.record r).requests = s.requests ++ [r] := rfl

/-! ### Allocation (45_tracker.md R242) -/

@[simp] theorem allocId_cfg (s : State) : (s.allocId).cfg = s.cfg := rfl
@[simp] theorem allocId_crc (s : State) : (s.allocId).crc = s.crc := rfl
@[simp] theorem allocId_txb (s : State) : (s.allocId).txb = s.txb := rfl
@[simp] theorem allocId_trkCounter (s : State) : (s.allocId).trkCounter = s.trkCounter + 1 := rfl
@[simp] theorem allocId_trkPending (s : State) : (s.allocId).trkPending = shiftMask s.cfg.w s.trkPending ||| 1 := rfl
@[simp] theorem allocId_trkFailed (s : State) : (s.allocId).trkFailed = shiftMask s.cfg.w s.trkFailed := rfl
@[simp] theorem allocId_status (s : State) : (s.allocId).status = s.status := rfl
@[simp] theorem allocId_result (s : State) : (s.allocId).result = s.result := rfl
@[simp] theorem allocId_busy (s : State) : (s.allocId).busy = s.busy := rfl
@[simp] theorem allocId_flight (s : State) : (s.allocId).flight = s.flight := rfl
@[simp] theorem allocId_chan (s : State) : (s.allocId).chan = s.chan := rfl
@[simp] theorem allocId_handler (s : State) : (s.allocId).handler = s.handler := rfl
@[simp] theorem allocId_host (s : State) : (s.allocId).host = s.host := rfl
@[simp] theorem allocId_turns (s : State) : (s.allocId).turns = s.turns := rfl
@[simp] theorem allocId_requests (s : State) : (s.allocId).requests = s.requests := rfl

/-! ### The payload buffer (10_state.md R23) -/

@[simp] theorem setTxb_cfg (s : State) (bytes : List Byte) : (s.setTxb bytes).cfg = s.cfg := rfl
@[simp] theorem setTxb_crc (s : State) (bytes : List Byte) : (s.setTxb bytes).crc = s.crc := rfl
@[simp] theorem setTxb_txb (s : State) (bytes : List Byte) : (s.setTxb bytes).txb = bytes := rfl
@[simp] theorem setTxb_trkCounter (s : State) (bytes : List Byte) : (s.setTxb bytes).trkCounter = s.trkCounter := rfl
@[simp] theorem setTxb_trkPending (s : State) (bytes : List Byte) : (s.setTxb bytes).trkPending = s.trkPending := rfl
@[simp] theorem setTxb_trkFailed (s : State) (bytes : List Byte) : (s.setTxb bytes).trkFailed = s.trkFailed := rfl
@[simp] theorem setTxb_status (s : State) (bytes : List Byte) : (s.setTxb bytes).status = s.status := rfl
@[simp] theorem setTxb_result (s : State) (bytes : List Byte) : (s.setTxb bytes).result = s.result := rfl
@[simp] theorem setTxb_busy (s : State) (bytes : List Byte) : (s.setTxb bytes).busy = s.busy := rfl
@[simp] theorem setTxb_flight (s : State) (bytes : List Byte) : (s.setTxb bytes).flight = s.flight := rfl
@[simp] theorem setTxb_chan (s : State) (bytes : List Byte) : (s.setTxb bytes).chan = s.chan := rfl
@[simp] theorem setTxb_handler (s : State) (bytes : List Byte) : (s.setTxb bytes).handler = s.handler := rfl
@[simp] theorem setTxb_host (s : State) (bytes : List Byte) : (s.setTxb bytes).host = s.host := rfl
@[simp] theorem setTxb_turns (s : State) (bytes : List Byte) : (s.setTxb bytes).turns = s.turns := rfl
@[simp] theorem setTxb_requests (s : State) (bytes : List Byte) : (s.setTxb bytes).requests = s.requests := rfl

/-! ### Marking (45_tracker.md R243): only the two masks can change -/

@[simp] theorem markId_cfg (s : State) (m : Byte) (p f : Bool) : (s.markId m p f).cfg = s.cfg := by
  unfold markId
  split <;> rfl

@[simp] theorem markId_crc (s : State) (m : Byte) (p f : Bool) : (s.markId m p f).crc = s.crc := by
  unfold markId
  split <;> rfl

@[simp] theorem markId_txb (s : State) (m : Byte) (p f : Bool) : (s.markId m p f).txb = s.txb := by
  unfold markId
  split <;> rfl

@[simp] theorem markId_trkCounter (s : State) (m : Byte) (p f : Bool) : (s.markId m p f).trkCounter = s.trkCounter := by
  unfold markId
  split <;> rfl

theorem markId_trkPending (s : State) (m : Byte) (p f : Bool) :
    (s.markId m p f).trkPending = if s.inWindow m then setMaskBit s.trkPending (s.pos m) p else s.trkPending := by
  unfold markId
  split <;> rfl

theorem markId_trkFailed (s : State) (m : Byte) (p f : Bool) :
    (s.markId m p f).trkFailed = if s.inWindow m then setMaskBit s.trkFailed (s.pos m) f else s.trkFailed := by
  unfold markId
  split <;> rfl

@[simp] theorem markId_status (s : State) (m : Byte) (p f : Bool) : (s.markId m p f).status = s.status := by
  unfold markId
  split <;> rfl

@[simp] theorem markId_result (s : State) (m : Byte) (p f : Bool) : (s.markId m p f).result = s.result := by
  unfold markId
  split <;> rfl

@[simp] theorem markId_busy (s : State) (m : Byte) (p f : Bool) : (s.markId m p f).busy = s.busy := by
  unfold markId
  split <;> rfl

@[simp] theorem markId_flight (s : State) (m : Byte) (p f : Bool) : (s.markId m p f).flight = s.flight := by
  unfold markId
  split <;> rfl

@[simp] theorem markId_chan (s : State) (m : Byte) (p f : Bool) : (s.markId m p f).chan = s.chan := by
  unfold markId
  split <;> rfl

@[simp] theorem markId_handler (s : State) (m : Byte) (p f : Bool) : (s.markId m p f).handler = s.handler := by
  unfold markId
  split <;> rfl

@[simp] theorem markId_host (s : State) (m : Byte) (p f : Bool) : (s.markId m p f).host = s.host := by
  unfold markId
  split <;> rfl

@[simp] theorem markId_turns (s : State) (m : Byte) (p f : Bool) : (s.markId m p f).turns = s.turns := by
  unfold markId
  split <;> rfl

@[simp] theorem markId_requests (s : State) (m : Byte) (p f : Bool) : (s.markId m p f).requests = s.requests := by
  unfold markId
  split <;> rfl

end State

end Sys2Proof.Machine
end

