-- ==== Sys2Proof/Laws/Tracker.lean ====
section
/-! SUPPORT. The window arithmetic and the bits of the tracker masks (45_tracker.md R241 to R245). -/

namespace Sys2Proof.Machine

theorem width_pos (w : Window) : 32 ≤ w.width ∧ w.width ≤ 64 := by cases w <;> decide

theorem windowMask_bit (w : Window) (i : Nat) : (windowMask w).getLsbD i = decide (i < w.width) := by
  by_cases h : i < 64
  · revert i
    cases w <;> decide
  · have : w.width ≤ 64 := (width_pos w).2
    rw [BitVec.getLsbD_of_ge _ _ (by omega)]
    symm
    simp only [decide_eq_false_iff_not]
    omega

theorem shiftMask_bit (w : Window) (v : Long) (i : Nat) :
    (shiftMask w v).getLsbD i = (decide (i < w.width) && decide (1 ≤ i) && v.getLsbD (i - 1)) := by
  have hw := width_pos w
  simp only [shiftMask, BitVec.getLsbD_and, BitVec.getLsbD_shiftLeft, windowMask_bit]
  by_cases h : i < w.width <;> by_cases h1 : 1 ≤ i <;> simp [h, h1] <;> omega

theorem setMaskBit_bit (v : Long) (p : Nat) (b : Bool) (hp : p < 64) (i : Nat) :
    (setMaskBit v p b).getLsbD i = if i = p then b else v.getLsbD i := by
  by_cases h : i < 64
  · simp only [setMaskBit, zext64Bit, bit, BitVec.getLsbD_or, BitVec.getLsbD_and, BitVec.getLsbD_not,
      BitVec.getLsbD_shiftLeft]
    by_cases hip : i = p
    · subst hip
      cases b <;> simp [h]
    · rcases Nat.lt_or_gt_of_ne hip with hlt | hgt
      · simp [h, hlt, hip]
      · have h1 : ¬ i < p := by omega
        have h2 : ¬ (i - p = 0) := by omega
        cases b <;> simp [h, h1, h2, hip, BitVec.getLsbD_one]
  · have : i ≠ p := by omega
    simp [this, BitVec.getLsbD_of_ge _ _ (Nat.le_of_not_lt h)]

/-- A mask fits its window exactly when no bit at `W` or above is set. -/
theorem fits_iff (w : Window) (v : Long) :
    v &&& windowMask w = v ↔ ∀ i, w.width ≤ i → v.getLsbD i = false := by
  constructor
  · intro h i hi
    rw [← h, BitVec.getLsbD_and, windowMask_bit]
    simp [Nat.not_lt.mpr hi]
  · intro h
    apply BitVec.eq_of_getLsbD_eq
    intro i _
    rw [BitVec.getLsbD_and, windowMask_bit]
    by_cases hi : i < w.width
    · simp [hi]
    · simp [hi, h i (Nat.le_of_not_lt hi)]

theorem shiftMask_fits (w : Window) (v : Long) : shiftMask w v &&& windowMask w = shiftMask w v := by
  rw [fits_iff]
  intro i hi
  rw [shiftMask_bit]
  simp [Nat.not_lt.mpr hi]

theorem shiftMask_or_one_fits (w : Window) (v : Long) :
    (shiftMask w v ||| 1) &&& windowMask w = shiftMask w v ||| 1 := by
  rw [fits_iff]
  intro i hi
  have := (width_pos w).1
  have h0 : ¬ i = 0 := by omega
  simp [BitVec.getLsbD_or, shiftMask_bit, BitVec.getLsbD_one, Nat.not_lt.mpr hi, h0]

theorem setMaskBit_fits (w : Window) (v : Long) (p : Nat) (b : Bool) (hp : p < w.width)
    (hv : v &&& windowMask w = v) : setMaskBit v p b &&& windowMask w = setMaskBit v p b := by
  rw [fits_iff] at hv ⊢
  intro i hi
  have := (width_pos w).2
  rw [setMaskBit_bit v p b (by omega) i]
  split
  · omega
  · exact hv i hi

namespace State

theorem inWindow_iff (s : State) (m : Byte) :
    s.inWindow m = true ↔ 1 ≤ s.dist m ∧ s.dist m ≤ s.cfg.w.width := by
  simp [inWindow]

theorem pos_lt_width {s : State} {m : Byte} (h : s.inWindow m = true) : s.pos m < s.cfg.w.width := by
  rw [inWindow_iff] at h
  unfold pos
  omega

/-- The last id allocated is at distance 1 (R240, R241). -/
theorem dist_last {s : State} {m : Byte} (h : s.trkCounter = m + 1) : s.dist m = 1 := by
  have e : s.trkCounter - m = 1 := by
    rw [h, BitVec.add_comm]
    exact BitVec.add_sub_cancel 1 m
  simp [dist, e]

theorem inWindow_last {s : State} {m : Byte} (h : s.trkCounter = m + 1) : s.inWindow m = true := by
  have := (width_pos s.cfg.w).1
  rw [inWindow_iff, dist_last h]
  omega

theorem pos_last {s : State} {m : Byte} (h : s.trkCounter = m + 1) : s.pos m = 0 := by
  simp [pos, dist_last h]

/-- A query reads its mask at the id's position (R244). -/
theorem queryPending_inWindow {s : State} {m : Byte} (h : s.inWindow m = true) :
    s.queryPending m = .bit (s.trkPending.getLsbD (s.pos m)) := by
  simp [queryPending, h]

/-- A query reads its mask at the id's position (R245). -/
theorem queryFailed_inWindow {s : State} {m : Byte} (h : s.inWindow m = true) :
    s.queryFailed m = .bit (s.trkFailed.getLsbD (s.pos m)) := by
  simp [queryFailed, h]

/-- Distance, window and position depend on the parameters and the counter only. -/
theorem window_congr {s t : State} (hc : t.cfg = s.cfg) (hn : t.trkCounter = s.trkCounter) (m : Byte) :
    t.inWindow m = s.inWindow m ∧ t.pos m = s.pos m := by
  constructor
  · unfold inWindow dist
    rw [hc, hn]
  · unfold pos dist
    rw [hn]

/-- A query depends on the parameters, the counter and its mask only. -/
theorem queryPending_congr {s t : State} (hc : t.cfg = s.cfg) (hn : t.trkCounter = s.trkCounter)
    (hp : t.trkPending = s.trkPending) (m : Byte) : t.queryPending m = s.queryPending m := by
  simp only [queryPending, window_congr hc hn, hp]

theorem queryFailed_congr {s t : State} (hc : t.cfg = s.cfg) (hn : t.trkCounter = s.trkCounter)
    (hp : t.trkFailed = s.trkFailed) (m : Byte) : t.queryFailed m = s.queryFailed m := by
  simp only [queryFailed, window_congr hc hn, hp]

/-- The id just allocated is pending and not failed (R242). -/
theorem allocId_query (s : State) :
    s.allocId.queryPending s.trkCounter = .bit true ∧ s.allocId.queryFailed s.trkCounter = .bit false := by
  have h : s.allocId.trkCounter = s.trkCounter + 1 := rfl
  have hw := inWindow_last h
  have hp := pos_last h
  have hf : (shiftMask s.cfg.w s.trkFailed).getLsbD 0 = false := by rw [shiftMask_bit]; simp
  rw [queryPending_inWindow hw, queryFailed_inWindow hw, hp, allocId_trkFailed, hf]
  simp

@[simp] theorem markId_inWindow (s : State) (m m' : Byte) (p f : Bool) :
    (s.markId m p f).inWindow m' = s.inWindow m' :=
  (window_congr (markId_cfg s m p f) (markId_trkCounter s m p f) m').1

@[simp] theorem markId_pos (s : State) (m m' : Byte) (p f : Bool) :
    (s.markId m p f).pos m' = s.pos m' :=
  (window_congr (markId_cfg s m p f) (markId_trkCounter s m p f) m').2

/-- A mark is read back by both queries (R243 to R245). -/
theorem markId_query {s : State} {m : Byte} (p f : Bool) (h : s.inWindow m = true) :
    (s.markId m p f).queryPending m = .bit p ∧ (s.markId m p f).queryFailed m = .bit f := by
  have hp : s.pos m < 64 := Nat.lt_of_lt_of_le (pos_lt_width h) (width_pos s.cfg.w).2
  simp [queryPending, queryFailed, h, markId_trkPending, markId_trkFailed, setMaskBit_bit _ _ _ hp]

/-- A mark keeps both masks within the window. -/
theorem markId_fits (s : State) (m : Byte) (p f : Bool)
    (hp : s.trkPending &&& windowMask s.cfg.w = s.trkPending)
    (hf : s.trkFailed &&& windowMask s.cfg.w = s.trkFailed) :
    (s.markId m p f).trkPending &&& windowMask s.cfg.w = (s.markId m p f).trkPending ∧
    (s.markId m p f).trkFailed &&& windowMask s.cfg.w = (s.markId m p f).trkFailed := by
  rw [markId_trkPending, markId_trkFailed]
  by_cases h : s.inWindow m = true
  · simp only [h, if_true]
    exact ⟨setMaskBit_fits _ _ _ _ (pos_lt_width h) hp, setMaskBit_fits _ _ _ _ (pos_lt_width h) hf⟩
  · simp only [h]
    exact ⟨hp, hf⟩

end State

end Sys2Proof.Machine
end

