-- ==== Sys2Proof/Laws/Cycle.lean ====
section
/-! SUPPORT. What a request to an agent, a write and a receive cycle can change (44_receive.md R211,
20_memory.md R55 to R57): one lemma for each shared operation, which later proofs cite. -/

namespace Sys2Proof.Machine

/-- What no request to an agent changes: everything of the block, the host's side, and whose turn it is. -/
structure SameBlock (s t : State) : Prop where
  cfg : t.cfg = s.cfg
  crc : t.crc = s.crc
  txb : t.txb = s.txb
  trkCounter : t.trkCounter = s.trkCounter
  trkPending : t.trkPending = s.trkPending
  trkFailed : t.trkFailed = s.trkFailed
  status : t.status = s.status
  result : t.result = s.result
  busy : t.busy = s.busy
  flight : t.flight = s.flight
  host : t.host = s.host
  turns : t.turns = s.turns

theorem SameBlock.refl (s : State) : SameBlock s s := by
  constructor <;> rfl

theorem SameBlock.query {s t : State} (h : SameBlock s t) (m : Byte) :
    t.queryPending m = s.queryPending m ∧ t.queryFailed m = s.queryFailed m :=
  ⟨State.queryPending_congr h.cfg h.trkCounter h.trkPending m, State.queryFailed_congr h.cfg h.trkCounter h.trkFailed m⟩

/-- R55: a read takes the next answer of `CHAN` and changes nothing else. -/
theorem chanRead_some {s t : State} {a : RxAnswer} (h : chanRead s = some (a, t)) :
    ∃ rest, s.chan.rx = a :: rest ∧
      t = { s with chan := { s.chan with rx := rest }, requests := s.requests ++ [.read] } := by
  unfold chanRead at h
  split at h
  · cases h
  · rename_i a' rest heq
    simp only [Option.some.injEq, Prod.mk.injEq] at h
    obtain ⟨rfl, rfl⟩ := h
    exact ⟨rest, heq, rfl⟩

/-- R56: a write takes the next answer of `CHAN` and appends what it accepted. -/
theorem chanWrite_some {s t : State} {a : WrAnswer} {bytes : List Byte} (h : chanWrite bytes s = some (a, t)) :
    ∃ rest, s.chan.wr = a :: rest ∧
      t = { s with
              chan := { s.chan with wr := rest, tx := s.chan.tx ++ accepted a bytes }
              requests := s.requests ++ [.write bytes] } := by
  unfold chanWrite at h
  split at h
  · cases h
  · rename_i a' rest heq
    simp only [Option.some.injEq, Prod.mk.injEq] at h
    obtain ⟨rfl, rfl⟩ := h
    exact ⟨rest, heq, rfl⟩

/-- R218: a handler request takes the next answer of `HANDLER` and changes nothing else. -/
theorem handlerAsk_some {s t : State} {a : HdAnswer} {r : Request} (h : handlerAsk r s = some (a, t)) :
    ∃ rest, s.handler.answers = a :: rest ∧
      t = { s with handler := { answers := rest }, requests := s.requests ++ [r] } := by
  unfold handlerAsk at h
  split at h
  · cases h
  · rename_i a' rest heq
    simp only [Option.some.injEq, Prod.mk.injEq] at h
    obtain ⟨rfl, rfl⟩ := h
    exact ⟨rest, heq, rfl⟩

theorem chanRead_same {s t : State} {a : RxAnswer} (h : chanRead s = some (a, t)) : SameBlock s t := by
  obtain ⟨rest, -, rfl⟩ := chanRead_some h
  constructor <;> rfl

theorem chanWrite_same {s t : State} {a : WrAnswer} {bytes : List Byte} (h : chanWrite bytes s = some (a, t)) :
    SameBlock s t := by
  obtain ⟨rest, -, rfl⟩ := chanWrite_some h
  constructor <;> rfl

theorem handlerAsk_same {s t : State} {a : HdAnswer} {r : Request} (h : handlerAsk r s = some (a, t)) :
    SameBlock s t := by
  obtain ⟨rest, -, rfl⟩ := handlerAsk_some h
  constructor <;> rfl

/-- What a step of a receive cycle can do, from `s` (R211): hold; go on with the block unchanged, to a
legal phase where the one before was legal; apply the ack frame the synchronizer has just checked; or end in
another way with the block unchanged. -/
inductive CycleCan (c : RxCycle) (s : State) : CycleStep → Prop
  | hold (noFrame : ∀ y h p, c = .sync y → syncCheck y ≠ some (.done (.frame h p))) : CycleCan c s .hold
  | more {c' : RxCycle} {t : State} (same : SameBlock s t) (ok : c.wf → c'.wf)
      (notAck : ∀ y h p, c = .sync y → syncCheck y = some (.done (.frame h p)) → h.ptype ≠ 0) :
      CycleCan c s (.more c' t)
  | ack {y : Sync} {h : Header} {p : Option (List Byte)} (phase : c = .sync y)
      (checked : syncCheck y = some (.done (.frame h p))) (isAck : h.ptype = 0) :
      CycleCan c s (.done (.ack h) (s.markId h.mid false (failFlag h.flags)))
  | other {r : CycleResult} {t : State} (same : SameBlock s t) (notAck : ∀ h, r ≠ .ack h)
      (noFrame : ∀ y h p, c = .sync y → syncCheck y ≠ some (.done (.frame h p))) : CycleCan c s (.done r t)

theorem dispatched_ne_ack (h : Header) (failed a : Bool) (h' : Header) : dispatched h failed a ≠ .ack h' := by
  unfold dispatched
  split <;> simp

theorem afterHandler_can {c : RxCycle} {s t : State} {h : Header} (failed : Bool) (same : SameBlock s t)
    (ht : c.wf → h.ptype ≠ 0) (hc : ∀ y, c ≠ .sync y) : CycleCan c s (afterHandler h failed t) := by
  unfold afterHandler
  split
  · exact .more same (fun hl => ⟨ht hl, ‹_›⟩) fun y _ _ e => absurd e (hc y)
  · exact .other same (dispatched_ne_ack h failed false) fun y _ _ e => absurd e (hc y)

theorem cycleSync_can (y : Sync) (s : State) : CycleCan (.sync y) s (cycleSync y s) := by
  unfold cycleSync
  split
  · rename_i c hc
    have hwf := fun hy : y.wf => syncCheck_wf hy hc
    unfold cycleChecked
    split
    · exact .more (.refl s) hwf fun _ _ _ e e' => by cases e; rw [hc] at e'; cases e'
    · rename_i h p
      unfold dispatchFrame
      split
      · exact .ack rfl hc ‹_›
      · rename_i hn
        exact .more (.refl s) (fun hy => ⟨hn, hwf hy⟩) fun _ _ _ e e' => by cases e; rw [hc] at e'; cases e'; exact hn
    · exact .other (.refl s) (by simp) fun _ _ _ e e' => by cases e; rw [hc] at e'; cases e'
  · rename_i hc
    have noCheck : ∀ y' h p, RxCycle.sync y = .sync y' → syncCheck y' ≠ some (.done (.frame h p)) := by
      intro y' h p e e'
      cases e
      rw [hc] at e'
      cases e'
    unfold cycleRead
    split
    · exact .hold noCheck
    · exact .other (chanRead_same ‹_›) (by simp) noCheck
    · exact .more (chanRead_same ‹_›) (fun hy => syncByte_wf s.cfg _ hy hc) fun y' h p e e' => absurd e' (noCheck y' h p e)

/-- Every step of a receive cycle is one of these. -/
theorem cycleStep_can (c : RxCycle) (s : State) : CycleCan c s (cycleStep c s) := by
  cases c with
  | sync y => exact cycleSync_can y s
  | create h p =>
    show CycleCan _ s (cycleCreate h p s)
    unfold cycleCreate
    split
    · exact .hold (by simp)
    · exact .more (handlerAsk_same ‹_›) id (by simp)
    · exact afterHandler_can true (handlerAsk_same ‹_›) And.left (by simp)
  | process h p =>
    show CycleCan _ s (cycleProcess h p s)
    unfold cycleProcess
    split
    · exact .hold (by simp)
    · exact afterHandler_can false (handlerAsk_same ‹_›) And.left (by simp)
    · exact afterHandler_can true (handlerAsk_same ‹_›) And.left (by simp)
  | ackWrite h failed =>
    show CycleCan _ s (cycleAckWrite h failed s)
    unfold cycleAckWrite
    split
    · exact .hold (by simp)
    · exact .other (chanWrite_same ‹_›) (by simp) (by simp)
    · exact .other (chanWrite_same ‹_›) (dispatched_ne_ack h failed true) (by simp)

/-- What a channel write of a frame write can do (R57). -/
inductive WriteCan (f : SendFrame) (s : State) : WriteStep → Prop
  | hold : WriteCan f s .hold
  | more {t : State} (same : SameBlock s t) (nonempty : f.payload ≠ []) : WriteCan f s (.more .payload t)
  | written {t : State} (same : SameBlock s t) : WriteCan f s (.written t)
  | chanErr {t : State} (same : SameBlock s t) : WriteCan f s (.chanErr t)

theorem writeStep_can (f : SendFrame) (p : WritePhase) (s : State) : WriteCan f s (writeStep f p s) := by
  unfold writeStep
  split
  · exact .hold
  · exact .chanErr (chanWrite_same ‹_›)
  · rename_i t ht
    have same := chanWrite_same ht
    unfold afterWrite
    split
    · split
      · exact .written same
      · exact .more same ‹_›
    · exact .written same

end Sys2Proof.Machine
end

