-- ==== Sys2Proof/Laws/PerInstr.lean ====
section
/-! SUPPORT. Per-instruction statements (LAWS.json): the words an instruction encodes to are those of its
own row of spec/opcode_table.json. -/

namespace Sys2Proof.Laws.TableRow

/-- The `match` value of each row of spec/opcode_table.json. -/
def rowMatch : Instr → Word
  | .nop => 0x00000000
  | .crcInit => 0x01000000
  | .crcByte _ => 0x02000000
  | .txbClear => 0x10000000
  | .txbPush _ => 0x11000000
  | .send _ _ _ => 0x20000000
  | .receive => 0x21000000
  | .trkAlloc => 0x30000000
  | .trkMark _ _ _ => 0x31000000
  | .trkQpend _ => 0x32000000
  | .trkQfail _ => 0x33000000
  | .regRead _ => 0x40000000

/-- Under its row's `mask`, the word of an instruction is its row's `match`. -/
def Statement (i : Instr) : Prop := encode i &&& 0xFF000000 = rowMatch i

/-- The mask keeps the field `OP` alone (30_encoding.md R70). -/
theorem packWord_mask (op a b c : Byte) : packWord op a b c &&& 0xFF000000 = op.zeroExtend 32 <<< 24 := by
  apply BitVec.eq_of_getLsbD_eq
  intro i hi
  have h : (0xFF000000#32).getLsbD i = decide (24 ≤ i) := by
    revert i
    decide
  show (packWord op a b c &&& 0xFF000000#32).getLsbD i = _
  rw [BitVec.getLsbD_and, h]
  simp only [packWord, BitVec.getLsbD_append, BitVec.getLsbD_shiftLeft, BitVec.getLsbD_setWidth]
  by_cases h24 : 24 ≤ i
  · have h1 : ¬ i < 8 := by omega
    have h2 : ¬ i - 8 < 8 := by omega
    have h3 : ¬ i - 8 - 8 < 8 := by omega
    have h4 : i - 8 - 8 - 8 = i - 24 := by omega
    have h5 : i - 24 < 32 := by omega
    simp [h1, h2, h3, h4, h5, h24, hi, Nat.not_lt.mpr h24]
  · simp [h24, Nat.lt_of_not_le h24]

theorem statement_of_opcode (i : Instr) (h : i.opcode.byte.zeroExtend 32 <<< 24 = rowMatch i) : Statement i :=
  (packWord_mask _ _ _ _).trans h

theorem nop : Statement .nop := statement_of_opcode _ (by decide)
theorem crcInit : Statement .crcInit := statement_of_opcode _ (by decide)
theorem crcByte (b : Byte) : Statement (.crcByte b) := statement_of_opcode (.crcByte b) (by decide : (0x02 : Byte).zeroExtend 32 <<< 24 = (0x02000000 : Word))
theorem txbClear : Statement .txbClear := statement_of_opcode _ (by decide)
theorem txbPush (b : Byte) : Statement (.txbPush b) := statement_of_opcode (.txbPush b) (by decide : (0x11 : Byte).zeroExtend 32 <<< 24 = (0x11000000 : Word))
theorem send (t v f : Byte) : Statement (.send t v f) := statement_of_opcode (.send t v f) (by decide : (0x20 : Byte).zeroExtend 32 <<< 24 = (0x20000000 : Word))
theorem receive : Statement .receive := statement_of_opcode _ (by decide)
theorem trkAlloc : Statement .trkAlloc := statement_of_opcode _ (by decide)
theorem trkMark (m : Byte) (p f : Bool) : Statement (.trkMark m p f) := statement_of_opcode (.trkMark m p f) (by decide : (0x31 : Byte).zeroExtend 32 <<< 24 = (0x31000000 : Word))
theorem trkQpend (m : Byte) : Statement (.trkQpend m) := statement_of_opcode (.trkQpend m) (by decide : (0x32 : Byte).zeroExtend 32 <<< 24 = (0x32000000 : Word))
theorem trkQfail (m : Byte) : Statement (.trkQfail m) := statement_of_opcode (.trkQfail m) (by decide : (0x33 : Byte).zeroExtend 32 <<< 24 = (0x33000000 : Word))
theorem regRead (idx : Byte) : Statement (.regRead idx) := statement_of_opcode (.regRead idx) (by decide : (0x40 : Byte).zeroExtend 32 <<< 24 = (0x40000000 : Word))

end Sys2Proof.Laws.TableRow
end

