-- ==== Sys2Proof/Laws/Step.lean ====
section
/-! SUPPORT. What a step can do: every command answers a next state, and the shape of every step (one
lemma, from which each claim about all steps is a short case analysis). -/

namespace Sys2Proof.Machine

/-- Every command answers a next state, in every state: none faults, none is refused. -/
theorem exec_next (i : Instr) (s : State) : ∃ t, exec i s = .next t := by
  cases i with
  | nop => exact ⟨_, rfl⟩
  | crcInit => exact ⟨_, rfl⟩
  | crcByte b => exact ⟨_, rfl⟩
  | txbClear => exact ⟨_, rfl⟩
  | txbPush b =>
    show ∃ t, execTxbPush b s = .next t
    unfold execTxbPush
    split <;> exact ⟨_, rfl⟩
  | send ptype ver flags =>
    show ∃ t, execSend ptype ver flags s = .next t
    unfold execSend
    split <;> exact ⟨_, rfl⟩
  | receive => exact ⟨_, rfl⟩
  | trkAlloc => exact ⟨_, rfl⟩
  | trkMark m p f => exact ⟨_, rfl⟩
  | trkQpend m => exact ⟨_, rfl⟩
  | trkQfail m => exact ⟨_, rfl⟩
  | regRead idx =>
    show ∃ t, execRegRead idx s = .next t
    unfold execRegRead
    split <;> exact ⟨_, rfl⟩

theorem runWord_next (w : Word) (s : State) : ∃ t, runWord w s = .next t := by
  unfold runWord
  split
  · exact exec_next _ s
  · exact ⟨_, rfl⟩

/-- What a step of the command in flight does to the tracker: an `ALLOC` allocates; the ack frame just
checked is marked; every other step leaves it. -/
inductive TrackerCan (s t : State) : Prop
  | alloc {ptype ver flags : Byte} {p : List Byte} (phase : s.flight = some (.sendAlloc ptype ver flags p))
      (counter : t.trkCounter = s.trkCounter + 1) (pending : t.trkPending = shiftMask s.cfg.w s.trkPending ||| 1)
      (failed : t.trkFailed = shiftMask s.cfg.w s.trkFailed)
  | ack {h : Header} (due : s.ackDue h) (only : ∀ h', s.ackDue h' → h' = h) (counter : t.trkCounter = s.trkCounter)
      (pending : t.trkPending = (s.markId h.mid false (failFlag h.flags)).trkPending)
      (failed : t.trkFailed = (s.markId h.mid false (failFlag h.flags)).trkFailed)
  | same (notAlloc : ∀ ptype ver flags p, s.flight ≠ some (.sendAlloc ptype ver flags p))
      (notAck : ∀ h, ¬ s.ackDue h) (counter : t.trkCounter = s.trkCounter) (pending : t.trkPending = s.trkPending)
      (failed : t.trkFailed = s.trkFailed)

/-- Everything a step of the command in flight can change of the block and the host's side (R211, R335). -/
structure AdvanceCan (s t : State) : Prop where
  cfg : t.cfg = s.cfg
  crc : t.crc = s.crc
  txb : t.txb = s.txb
  host : t.host = s.host
  turns : t.turns = s.turns
  outputs : t.busy = true → t.status = s.status ∧ t.result = s.result

theorem SameBlock.advanceCan {s t : State} (e : SameBlock s t) : AdvanceCan s t :=
  ⟨e.cfg, e.crc, e.txb, e.host, e.turns, fun _ => ⟨e.status, e.result⟩⟩

theorem AdvanceCan.inFlight {s t : State} (e : AdvanceCan s t) (o : t.status = s.status ∧ t.result = s.result)
    (f : Flight) : AdvanceCan s (t.inFlight f) := ⟨e.cfg, e.crc, e.txb, e.host, e.turns, fun _ => o⟩

theorem SameBlock.inFlight {s t : State} (e : SameBlock s t) (f : Flight) : AdvanceCan s (t.inFlight f) :=
  e.advanceCan.inFlight ⟨e.status, e.result⟩ f

theorem AdvanceCan.complete {s t : State} (e : AdvanceCan s t) (st : Status) (r : Long) :
    AdvanceCan s (t.complete st r) :=
  ⟨e.cfg, e.crc, e.txb, e.host, e.turns, fun hb => absurd hb (by simp)⟩

theorem TrackerCan.congr {s t u : State} (h : TrackerCan s t) (hc : u.trkCounter = t.trkCounter)
    (hp : u.trkPending = t.trkPending) (hf : u.trkFailed = t.trkFailed) : TrackerCan s u := by
  cases h with
  | alloc phase counter pending failed =>
    exact .alloc phase (hc.trans counter) (hp.trans pending) (hf.trans failed)
  | ack due only counter pending failed =>
    exact .ack due only (hc.trans counter) (hp.trans pending) (hf.trans failed)
  | same notAlloc notAck counter pending failed =>
    exact .same notAlloc notAck (hc.trans counter) (hp.trans pending) (hf.trans failed)

/-- A command in flight that is neither in `ALLOC` nor in a receive cycle leaves the tracker. -/
theorem TrackerCan.quiet {s t : State} {f : Flight} (hf : s.flight = some f) (same : SameBlock s t)
    (notAlloc : ∀ ptype ver flags p, f ≠ .sendAlloc ptype ver flags p) (notSync : ∀ y, ¬ f.inCycle (.sync y)) :
    TrackerCan s t := by
  refine .same (fun a b c p e => notAlloc a b c p (Option.some.inj (hf.symm.trans e))) ?_
    same.trkCounter same.trkPending same.trkFailed
  rintro h ⟨f', y, p, e, hin, -⟩
  cases hf.symm.trans e
  exact notSync y hin

theorem Flight.inCycle_unique {f : Flight} {c c' : RxCycle} (h : f.inCycle c) (h' : f.inCycle c') : c' = c := by
  rcases h with rfl | ⟨_, _, rfl⟩ <;> rcases h' with h' | ⟨_, _, h'⟩ <;> cases h' <;> rfl

/-- What a step of the receive cycle of the command in flight leaves, before the command takes its result. -/
structure CycleKeeps (s t : State) : Prop where
  tracker : TrackerCan s t
  block : AdvanceCan s t
  outputs : t.status = s.status ∧ t.result = s.result

theorem CycleKeeps.inFlight {s t : State} (h : CycleKeeps s t) (f : Flight) :
    AdvanceCan s (t.inFlight f) ∧ TrackerCan s (t.inFlight f) :=
  ⟨h.block.inFlight h.outputs f, h.tracker.congr rfl rfl rfl⟩

theorem CycleKeeps.complete {s t : State} (h : CycleKeeps s t) (st : Status) (r : Long) :
    AdvanceCan s (t.complete st r) ∧ TrackerCan s (t.complete st r) :=
  ⟨h.block.complete st r, h.tracker.congr rfl rfl rfl⟩

theorem CycleKeeps.quiet {s t : State} {f : Flight} (hf : s.flight = some f) (same : SameBlock s t)
    (notAlloc : ∀ ptype ver flags p, f ≠ .sendAlloc ptype ver flags p) (notSync : ∀ y, ¬ f.inCycle (.sync y)) :
    CycleKeeps s t := ⟨.quiet hf same notAlloc notSync, same.advanceCan, same.status, same.result⟩

theorem cycleStep_keeps {s : State} {f : Flight} {c : RxCycle} (hf : s.flight = some f) (hin : f.inCycle c) :
    match cycleStep c s with
    | .hold => CycleKeeps s s
    | .more _ t => CycleKeeps s t
    | .done _ t => CycleKeeps s t := by
  have notAlloc : ∀ a b d p, s.flight ≠ some (.sendAlloc a b d p) := by
    intro a b d p e
    cases hf.symm.trans e
    rcases hin with h | ⟨_, _, h⟩ <;> cases h
  have unique : ∀ {h : Header}, s.ackDue h → ∃ y p, c = .sync y ∧ syncCheck y = some (.done (.frame h p)) ∧ h.ptype = 0 := by
    rintro h ⟨f', y, p, e, hin', hy, ht⟩
    cases hf.symm.trans e
    exact ⟨y, p, (Flight.inCycle_unique hin hin').symm, hy, ht⟩
  have quiet : ∀ {t : State}, SameBlock s t →
      (∀ y h p, c = .sync y → syncCheck y = some (.done (.frame h p)) → h.ptype ≠ 0) → CycleKeeps s t := by
    intro t same no
    refine ⟨.same notAlloc (fun h due => ?_) same.trkCounter same.trkPending same.trkFailed, same.advanceCan,
      same.status, same.result⟩
    obtain ⟨y, p, hc, hy, ht⟩ := unique due
    exact no y h p hc hy ht
  have can := cycleStep_can c s
  revert can
  generalize cycleStep c s = r
  intro can
  cases can with
  | hold no => exact quiet (.refl s) fun y h p hc hy => absurd hy (no y h p hc)
  | more same _ no => exact quiet same no
  | @ack y h p phase checked isAck =>
    refine ⟨.ack ⟨f, y, p, hf, phase ▸ hin, checked, isAck⟩ ?_ (by simp) rfl rfl, ?_, by simp⟩
    · intro h' due
      obtain ⟨y', p', hc, hy, -⟩ := unique due
      cases phase.symm.trans hc
      cases checked.symm.trans hy
      rfl
    · constructor <;> simp
  | other same _ no => exact quiet same fun y h p hc hy => absurd hy (no y h p hc)

theorem writeStep_keeps {s : State} {f : Flight} {fr : SendFrame} {p : WritePhase} (hf : s.flight = some f)
    (notAlloc : ∀ ptype ver flags p, f ≠ .sendAlloc ptype ver flags p) (notSync : ∀ y, ¬ f.inCycle (.sync y)) :
    match writeStep fr p s with
    | .hold => CycleKeeps s s
    | .more _ t => CycleKeeps s t
    | .written t => CycleKeeps s t
    | .chanErr t => CycleKeeps s t := by
  have can := writeStep_can fr p s
  revert can
  generalize writeStep fr p s = r
  intro can
  cases can with
  | hold => exact .quiet hf (.refl s) notAlloc notSync
  | more same _ => exact .quiet hf same notAlloc notSync
  | written same => exact .quiet hf same notAlloc notSync
  | chanErr same => exact .quiet hf same notAlloc notSync

theorem afterCycle_can {s t : State} (h : CycleKeeps s t) (fr : SendFrame) (n : Nat) (r : CycleResult) :
    AdvanceCan s (afterCycle fr n r t) ∧ TrackerCan s (afterCycle fr n r t) := by
  cases r with
  | chanErr =>
    show AdvanceCan s (failedAttempt fr n t) ∧ TrackerCan s (failedAttempt fr n t)
    unfold failedAttempt
    split
    · exact h.complete _ _
    · exact h.inFlight _
  | noFrame => exact h.inFlight _
  | ack => exact h.inFlight _
  | delivered => exact h.inFlight _
  | procErr => exact h.complete _ _

theorem sendAckedStep_can {s : State} {fr : SendFrame} {n : Nat} {p : SendPhase}
    (hf : s.flight = some (.sendAcked fr n p)) :
    AdvanceCan s (sendAckedStep fr n p s) ∧ TrackerCan s (sendAckedStep fr n p s) := by
  have rest : (∀ c, p ≠ .waitReceive c) → CycleKeeps s s := fun hp =>
    .quiet hf (.refl s) (by simp) fun y hin => by
      rcases hin with h | ⟨_, _, h⟩ <;> cases h
      exact hp _ rfl
  cases p with
  | write w =>
    have keeps := writeStep_keeps (fr := fr) (p := w) hf (by simp) (by simp [Flight.inCycle])
    show AdvanceCan s (attemptWrite fr n w s) ∧ TrackerCan s (attemptWrite fr n w s)
    unfold attemptWrite
    cases hw : writeStep fr w s with
    | hold => exact ⟨(SameBlock.refl s).advanceCan, (rest (by simp)).tracker⟩
    | more p' t => rw [hw] at keeps; exact keeps.inFlight _
    | written t => rw [hw] at keeps; exact keeps.inFlight _
    | chanErr t => rw [hw] at keeps; exact keeps.complete _ _
  | waitQuery =>
    show AdvanceCan s (waitQuery fr n s) ∧ TrackerCan s (waitQuery fr n s)
    unfold waitQuery
    split
    · exact (rest (by simp)).complete _ _
    · exact (rest (by simp)).inFlight _
    · exact (rest (by simp)).inFlight _
  | waitReceive c =>
    have keeps := cycleStep_keeps hf (c := c) (.inr ⟨_, _, rfl⟩)
    show AdvanceCan s (waitReceive fr n c s) ∧ TrackerCan s (waitReceive fr n c s)
    unfold waitReceive
    cases hw : cycleStep c s with
    | hold => rw [hw] at keeps; exact ⟨keeps.block, keeps.tracker⟩
    | more c' t => rw [hw] at keeps; exact keeps.inFlight _
    | done r t => rw [hw] at keeps; exact afterCycle_can keeps _ _ _
  | resolve =>
    show AdvanceCan s (resolveSend fr s) ∧ TrackerCan s (resolveSend fr s)
    unfold resolveSend
    split <;> exact (rest (by simp)).complete _ _

/-- Everything a step of a busy block changes of the block's registers (R211, R62). -/
theorem advance_can (s : State) : AdvanceCan s (advance s) ∧ TrackerCan s (advance s) := by
  unfold advance
  split
  · rename_i hf
    exact ⟨(SameBlock.refl s).advanceCan, .same (by simp [hf]) (fun h ⟨_, _, _, e, _⟩ => by simp [hf] at e) rfl rfl rfl⟩
  · rename_i f hf
    cases f with
    | sendAlloc a b c p => exact ⟨⟨rfl, rfl, rfl, rfl, rfl, fun _ => ⟨rfl, rfl⟩⟩, .alloc hf rfl rfl rfl⟩
    | sendOnce fr p =>
      have keeps := writeStep_keeps (fr := fr) (p := p) hf (by simp) (by simp [Flight.inCycle])
      show AdvanceCan s (sendOnceStep fr p s) ∧ TrackerCan s (sendOnceStep fr p s)
      unfold sendOnceStep
      cases hw : writeStep fr p s with
      | hold => rw [hw] at keeps; exact ⟨keeps.block, keeps.tracker⟩
      | more p' t => rw [hw] at keeps; exact keeps.inFlight _
      | written t => rw [hw] at keeps; exact keeps.complete _ _
      | chanErr t => rw [hw] at keeps; exact keeps.complete _ _
    | sendAcked fr n p => exact sendAckedStep_can hf
    | receive c =>
      have keeps := cycleStep_keeps hf (c := c) (.inl rfl)
      show AdvanceCan s (receiveStep c s) ∧ TrackerCan s (receiveStep c s)
      unfold receiveStep
      cases hw : cycleStep c s with
      | hold => rw [hw] at keeps; exact ⟨keeps.block, keeps.tracker⟩
      | more c' t => rw [hw] at keeps; exact keeps.inFlight _
      | done r t =>
        rw [hw] at keeps
        cases r <;> exact keeps.complete _ _

/-- What a step of the agents beside the block changes (R11, R309): but for reset, nothing of the block. -/
structure SameRegisters (s t : State) : Prop where
  cfg : t.cfg = s.cfg
  crc : t.crc = s.crc
  txb : t.txb = s.txb
  trkCounter : t.trkCounter = s.trkCounter
  trkPending : t.trkPending = s.trkPending
  trkFailed : t.trkFailed = s.trkFailed
  status : t.status = s.status
  result : t.result = s.result
  busy : t.busy = s.busy
  flight : t.flight = s.flight
  requests : t.requests = s.requests

theorem hostStep_same (m : HostMove) (s : State) (hm : m ≠ .reset) : SameRegisters s (hostStep m s) := by
  cases m with
  | offer w => constructor <;> rfl
  | readCompletion =>
    show SameRegisters s (readCompletion s)
    unfold readCompletion
    split <;> constructor <;> rfl
  | reset => exact absurd rfl hm

theorem chanStep_same (m : ChanMove) (s : State) : SameRegisters s (chanStep m s) := by
  cases m <;> constructor <;> rfl

theorem handlerStep_same (a : HdAnswer) (s : State) : SameRegisters s (handlerStep a s) := by
  constructor <;> rfl

/-- What a step that answers a next state is (R11, R341). -/
inductive StepIs (s : State) : State → Prop
  /-- A reset. -/
  | reset (turn : s.nextTurn = .host .reset) : StepIs s s.passTurn.blockReset
  /-- A step of `HOST` that is no reset. -/
  | host {m : HostMove} (turn : s.nextTurn = .host m) (notReset : m ≠ .reset) : StepIs s (hostStep m s.passTurn)
  /-- A step of `CHAN`. -/
  | chan {m : ChanMove} (turn : s.nextTurn = .chan m) : StepIs s (chanStep m s.passTurn)
  /-- A step of `HANDLER`. -/
  | handler {a : HdAnswer} (turn : s.nextTurn = .handler a) : StepIs s (handlerStep a s.passTurn)
  /-- A step of the command in flight. -/
  | busy (turn : s.nextTurn = .block) (isBusy : s.busy = true) : StepIs s (advance s.passTurn)
  /-- An idle block with no command offered. -/
  | idle (turn : s.nextTurn = .block) (isIdle : s.busy = false) (empty : s.host.port = []) : StepIs s s.passTurn
  /-- A command accepted. -/
  | command {i : Instr} {w : Word} {rest : List Word} {t : State} (turn : s.nextTurn = .block)
      (isIdle : s.busy = false) (offer : s.host.port = w :: rest) (decoded : decode w = .instr i)
      (ran : exec i { s.passTurn with host := { s.host with port := rest } } = .next t) : StepIs s t
  /-- A word with a reserved opcode. -/
  | reserved {op : Byte} {w : Word} {rest : List Word} (turn : s.nextTurn = .block)
      (isIdle : s.busy = false) (offer : s.host.port = w :: rest) (decoded : decode w = .reserved op) :
      StepIs s ({ s.passTurn with host := { s.host with port := rest } }.complete .badCommand 0)

theorem blockStep_is {s t : State} (turn : s.nextTurn = .block) (h : blockStep s.passTurn = .next t) : StepIs s t := by
  unfold blockStep at h
  split at h
  · cases h
    exact .busy turn ‹_›
  · rename_i hb
    have hb' : s.busy = false := by simpa using hb
    unfold State.offered at h
    cases hp : s.host.port with
    | nil =>
      simp only [State.passTurn_host, hp] at h
      cases h
      exact .idle turn hb' hp
    | cons w rest =>
      simp only [State.passTurn_host, hp, runWord] at h
      cases hd : decode w with
      | instr i =>
        simp only [hd] at h
        exact .command turn hb' hp hd h
      | reserved op =>
        simp only [hd, execReserved] at h
        cases h
        exact .reserved turn hb' hp hd

theorem step_is {s t : State} (h : step s = .next t) : s.cfg.wf = true ∧ StepIs s t := by
  unfold step at h
  split at h
  · refine ⟨‹_›, ?_⟩
    cases hn : s.nextTurn with
    | block => exact blockStep_is hn (by simpa only [hn, turnStep] using h)
    | host m =>
      simp only [hn, turnStep] at h
      cases h
      by_cases hm : m = .reset
      · subst hm
        exact .reset hn
      · exact .host hn hm
    | chan m =>
      simp only [hn, turnStep] at h
      cases h
      exact .chan hn
    | handler a =>
      simp only [hn, turnStep] at h
      cases h
      exact .handler hn
  · cases h

end Sys2Proof.Machine
end

