-- ==== Sys2Proof/Tests/Slice0.lean ====
section
/-! SUPPORT. The model's own tests: words written out from 30_encoding.md R70 and R72, single steps whose
expected values are the vectors of 95_test_vectors.md, and, for every statement of OBLIGATIONS.json with
hypotheses, a state and operands that meet them all (`witness_<Name>`). -/

namespace Sys2Proof.Tests

open Sys2Proof.Machine

/-- The outcome is a next state of which the check holds. -/
def nextIs (o : Host.Outcome State Fault Refusal) (check : State → Bool) : Bool :=
  match o with
  | .next t => check t
  | .fault _ => false
  | .refused _ => false

/-- The reset state with these command words on the port. -/
def offering (words : List Word) : State :=
  { State.reset with host := { port := words, completions := [] } }

/-- The reset state busy with this command. -/
def flying (f : Flight) : State := State.reset.inFlight f

/-! ### Decoding: one word at least for each family -/

theorem test_decode_nop : decode 0b00000000_00000000_00000000_00000000#32 = .instr .nop := by decide
theorem test_decode_crcInit : decode 0b00000001_00000000_00000000_00000000#32 = .instr .crcInit := by decide
theorem test_decode_crcByte : decode 0b00000010_01010110_11111111_11111111#32 = .instr (.crcByte 0x56) := by decide
theorem test_decode_txbClear : decode 0b00010000_00000000_00000000_00000000#32 = .instr .txbClear := by decide
theorem test_decode_txbPush : decode 0b00010001_00000011_00000000_00000000#32 = .instr (.txbPush 0x03) := by decide
theorem test_decode_send : decode 0b00100000_00000101_00000001_10000001#32 = .instr (.send 0x05 0x01 0x81) := by decide
theorem test_decode_receive : decode 0b00100001_00000000_00000000_00000000#32 = .instr .receive := by decide
theorem test_decode_trkAlloc : decode 0b00110000_00000000_00000000_00000000#32 = .instr .trkAlloc := by decide
theorem test_decode_trkMark : decode 0b00110001_00000000_11111110_11111111#32 = .instr (.trkMark 0x00 false true) := by decide
theorem test_decode_trkQpend : decode 0b00110010_11100000_00000000_00000000#32 = .instr (.trkQpend 0xE0) := by decide
theorem test_decode_trkQfail : decode 0b00110011_00000001_00000000_00000000#32 = .instr (.trkQfail 0x01) := by decide
theorem test_decode_regRead : decode 0b01000000_00001000_00000000_00000000#32 = .instr (.regRead 0x08) := by decide
theorem test_decode_reserved : decode 0xFF010203#32 = .reserved 0xFF := by decide
theorem test_decodeTableWord : decodeTableWord 32 0x20050101 = some (.send 0x05 0x01 0x01) := by decide
theorem test_opcodes_distinct : (Opcode.all.map Opcode.byte).Nodup := by decide

/-! ### WellFormed: an ill-formed term for each check -/

theorem test_send_type_zero_refused : Instr.wellFormed (.send 0x00 0x01 0x01) = false := by decide
theorem test_regRead_index_nine_refused : Instr.wellFormed (.regRead 0x09) = false := by decide
theorem test_regRead_index_eight_accepted : Instr.wellFormed (.regRead 0x08) = true := by decide

/-! ### Helpers and codec -/

/-- V-STEP-8. -/
theorem test_crcStep : crcStep 0x1234 0x56 = 0xE993 := by decide
/-- V-CRC-7. -/
theorem test_crc16_check : crc16 [0x31, 0x32, 0x33, 0x34, 0x35, 0x36, 0x37, 0x38, 0x39] = 0xBB3D := by decide +kernel
/-- V-BIT-6, V-BIT-10. -/
theorem test_helpers : flagSet 0xFF 1 0 = 0xFD ∧ join16 0xD3 0xBA = 0xBAD3 := by decide
/-- V-COD-3 (`F3`). -/
theorem test_frame : frameBytes Config.vectors 0x02 0x37 0x09 0x03 0x01 [0xAA, 0x55] =
    [0x0F, 0x0A, 0x02, 0x37, 0x09, 0x03, 0x01, 0x02, 0x00, 0xBE, 0x9F, 0xCF, 0x11, 0xAA, 0x55] := by decide +kernel
/-- 44_receive.md R216, V-RX-3. -/
theorem test_rxResult : rxResult 2 (headerOf [0x02, 0x37, 0x09, 0x03, 0x01, 0x02, 0x00, 0xBE, 0x9F]) true =
    0x0002020103093706 := by decide

/-! ### Single steps -/

/-- V-CTL-1. -/
theorem test_nop : nextIs (exec .nop State.reset) (fun t => t == State.reset) = true := by decide
/-- V-CTL-3, V-CTL-6. -/
theorem test_regRead_sync : nextIs (step (offering [0x40080000])) (fun t => t.result == 0x0A0F && t.status == 0) = true := by decide
theorem test_regRead_undefined : nextIs (step (offering [0x40090000])) (fun t => t.result == 0 && t.status == 5) = true := by decide
/-- V-CRC-14. -/
theorem test_crcInit : nextIs (exec .crcInit { State.reset with crc := 0xBB3D }) (fun t => t.crc == 0) = true := by decide
/-- V-CRC-16. -/
theorem test_crcByte : nextIs (exec (.crcByte 0x02) { State.reset with crc := 0xC0C1 })
    (fun t => t.crc == 0x5180 && t.result == 0x5180) = true := by decide
theorem test_txbClear : nextIs (exec .txbClear { State.reset with txb := [1, 2, 3] }) (fun t => t.txb == []) = true := by decide
/-- 43_transmit.md R181, the example. -/
theorem test_txbPush : nextIs (exec (.txbPush 0x02) { State.reset with txb := [0x01] })
    (fun t => t.txb == [0x01, 0x02] && t.result == 2) = true := by decide
/-- V-TX-5. -/
theorem test_send_type_zero : nextIs (step { offering [0x20000101] with txb := [0x07] })
    (fun t => t.status == 5 && t.txb == [0x07] && t.trkCounter == 0 && t.requests == []) = true := by decide
/-- 43_transmit.md R183: the payload is taken at once; then the id is allocated, pending before any request. -/
theorem test_send_accepted : nextIs (step { offering [0x20050100] with txb := [0x07] })
    (fun t => t.busy && t.txb == [] && t.trkCounter == 0 && t.flight == some (.sendAlloc 0x05 0x01 0x00 [0x07])) = true := by decide
theorem test_send_alloc : nextIs (step (flying (.sendAlloc 0x05 0x01 0x00 [0x07])))
    (fun t => t.busy && t.trkCounter == 1 && t.trkPending == 1 && t.requests == []) = true := by decide +kernel
/-- V-TX-3: the one write of the frame `F1`. -/
theorem test_send_write : nextIs
    (step { flying (firstFlight 0x00 (builtFrame 0x05 0x01 0x00 [] State.reset)) with chan := { rx := [], wr := [.ok], tx := [] } })
    (fun t => !t.busy && t.status == 0 &&
      t.chan.tx == [0x0F, 0x0A, 0x01, 0x00, 0x05, 0x01, 0x00, 0x00, 0x00, 0x00, 0x00, 0x59, 0x41]) = true := by decide +kernel
theorem test_receive : nextIs (step (offering [0x21000000]))
    (fun t => t.busy && t.flight == some (.receive (.sync (.scan none))) && t.status == 0) = true := by decide
/-- 42_frame_codec.md R156: both checksum bytes are held, then compared (V-RX-9, the header of `F1X`). -/
theorem test_receive_hcs : nextIs
    (step { flying (.receive (.sync (.hcs [0x01, 0x00, 0x05, 0xFE, 0x00, 0x00, 0x00, 0x00, 0x00] [0x59]
        (crc16 [0x01, 0x00, 0x05, 0xFE, 0x00, 0x00, 0x00, 0x00, 0x00])))) with
      chan := { rx := [.byte 0x41], wr := [], tx := [] } })
    (fun t => t.flight == some (.receive (.sync (.hcs [0x01, 0x00, 0x05, 0xFE, 0x00, 0x00, 0x00, 0x00, 0x00] [0x59, 0x41]
        (crc16 [0x01, 0x00, 0x05, 0xFE, 0x00, 0x00, 0x00, 0x00, 0x00])))) && nextIs (step t)
      (fun u => u.flight == some (.receive freshCycle))) = true := by decide +kernel
/-- V-RX-6: the ack response whose write fails after 5 bytes. -/
theorem test_receive_ackWrite : nextIs
    (step { flying (.receive (.ackWrite (headerOf [0x02, 0x37, 0x09, 0x03, 0x01, 0x02, 0x00, 0xBE, 0x9F]) false)) with
      chan := { rx := [], wr := [.err 5], tx := [] } })
    (fun t => t.status == 1 && t.result == 0 && t.chan.tx == [0x0F, 0x0A, 0x01, 0x37, 0x00]) = true := by decide
/-- V-TRK-8, and one allocation at `W = 32` with bit 31 set: it is lost. -/
theorem test_trkAlloc_wraps : nextIs (exec .trkAlloc { State.reset with trkCounter := 0xFF })
    (fun t => t.result == 0xFF && t.trkCounter == 0 && t.trkPending == 1) = true := by decide
theorem test_trkAlloc_evicts : nextIs (exec .trkAlloc { State.reset with trkPending := 0x80000001 })
    (fun t => t.trkPending == 3) = true := by decide
/-- V-TRK-3. -/
theorem test_trkMark : nextIs (exec (.trkMark 0x00 false true) { State.reset with trkCounter := 2, trkPending := 3 })
    (fun t => t.trkPending == 1 && t.trkFailed == 2) = true := by decide
/-- V-TRK-4. -/
theorem test_trkMark_outside : nextIs (exec (.trkMark 0x02 false true) { State.reset with trkCounter := 2, trkPending := 3 })
    (fun t => t.trkPending == 3 && t.trkFailed == 0 && t.status == 0) = true := by decide
/-- V-TRK-10: distances 32 and 33. -/
theorem test_trkQpend_edge : nextIs (exec (.trkQpend 0xE0) State.reset) (fun t => t.status == 0 && t.result == 0) = true := by decide
theorem test_trkQpend_outside : nextIs (exec (.trkQpend 0xDF) State.reset) (fun t => t.status == 2 && t.result == 0) = true := by decide
/-- V-TRK-12. -/
theorem test_trkQfail : nextIs (exec (.trkQfail 0x00) { State.reset with trkCounter := 2, trkPending := 1, trkFailed := 2 })
    (fun t => t.status == 0 && t.result == 1) = true := by decide
/-- V-CTL-7. -/
theorem test_reserved_opcode : nextIs (step (offering [0x03000000])) (fun t => t.status == 5 && t.requests == []) = true := by decide
/-- The word a table row's number stands for is what the next step runs. -/
theorem test_withFetchWord : nextIs (step (State.reset.withFetchWord 32 0x30000000)) (fun t => t.trkCounter == 1) = true := by decide
/-- P3's last line and R83's `FAILSIM 0x07`. -/
theorem test_parse : parseLine ['T', 'R', 'K', '_', 'Q', 'F', 'A', 'I', 'L', ' ', '0', ' ', ';', 'x'] =
    some [.command (.trkQfail 0)] := by decide
theorem test_parse_failsim : parseLine ['F', 'A', 'I', 'L', 'S', 'I', 'M', ' ', '0', 'x', '0', '7'] =
    some [.failSim 0x07] := by decide

/-! ### Witnesses: a state and operands that meet every hypothesis of a statement -/

/-- A ready state with these answers of `CHAN` and `HANDLER` to come. -/
def scripted (rx : List RxAnswer) (wr : List WrAnswer) (answers : List HdAnswer) : State :=
  { State.reset with chan := { rx := rx, wr := wr, tx := [] }, handler := { answers := answers } }

theorem scripted_ready (rx : List RxAnswer) (wr : List WrAnswer) (answers : List HdAnswer) :
    (scripted rx wr answers).Ready := ⟨rfl, rfl, rfl, rfl⟩

theorem offering_ready (words : List Word) : (offering words).Ready := ⟨rfl, rfl, rfl, rfl⟩

/-- The frame of a `SEND 5, 1, 1` with the payload `07`, from reset. -/
def sentFrame : SendFrame := builtFrame 0x05 0x01 0x01 [0x07] State.reset

/-- Configurations accepted and refused, at each bound. -/
theorem witness_ConfigurationsRefused :
    Config.build? 0x01 3 0x0F 0x0A 32 = some Config.vectors ∧
    Config.build? 0x01 1 0x0F 0x0A 64 ≠ none ∧ Config.build? 0x01 (2 ^ 64 - 1) 0x0F 0x0A 32 ≠ none ∧
    Config.build? 0x01 0 0x0F 0x0A 32 = none ∧ Config.build? 0x01 (2 ^ 64) 0x0F 0x0A 32 = none ∧
    Config.build? 0x01 3 0x0F 0x0A 33 = none ∧
    (State.resetWith { Config.vectors with maxAttempts := 0 }).cfg.maxAttempts = 0 ∧
    2 ^ 64 ≤ (State.resetWith { Config.vectors with maxAttempts := 2 ^ 64 }).cfg.maxAttempts ∧
    1 ≤ State.reset.cfg.maxAttempts ∧ State.reset.cfg.maxAttempts < 2 ^ 64 := by decide

theorem witness_StepRunsDecodedCommand :
    let s := fun w => offering [w]
    (∀ w, (s w).cfg.wf = true ∧ (s w).nextTurn = .block ∧ (s w).busy = false ∧ (s w).host.port = [w]) ∧
      decode 0x30000000 = .instr .trkAlloc ∧ Opcode.ofByte? (opField 0x03000000) = none ∧
      Opcode.ofByte? (opField 0xFF000000) = none :=
  ⟨fun _ => ⟨rfl, rfl, rfl, rfl⟩, by decide, by decide, by decide⟩

theorem witness_ResetStateValues : State.reset = State.reset ∧ (∃ cfg, State.reset = State.resetWith cfg) ∧
    ∃ s, State.blockReset State.reset = State.blockReset s := ⟨rfl, ⟨_, rfl⟩, ⟨_, rfl⟩⟩

theorem witness_ResetAbortsCommand :
    let s := { flying (.sendAcked sentFrame 1 .waitQuery) with turns := [.host .reset, .block] }
    s.cfg.wf = true ∧ s.nextTurn = .host .reset := ⟨rfl, rfl⟩

/-- A state with each turn; and a block that does not hold, with an answer to come. -/
theorem witness_AgentsTakeTheirOwnSteps :
    let turn := fun a : Turn => { State.reset with turns := [a] }
    (∀ a, (turn a).cfg.wf = true ∧ (turn a).nextTurn = a) ∧
    let s := { flying (.receive freshCycle) with chan := { rx := [.byte 0x0F], wr := [], tx := [] } }
    (.chan (.answerRead .err) : Turn) ≠ .host .reset ∧ (.chan (.answerRead .err) : Turn) ≠ .host .readCompletion ∧
    ∃ t, step { s with turns := [] } = .next t ∧ t ≠ { s with turns := [] } :=
  ⟨fun _ => ⟨rfl, rfl⟩, by decide, by decide, _, rfl, by decide⟩

/-- 44_receive.md R218: a hold is lifted by the answer that comes. -/
theorem test_answer_lifts_hold :
    let s := { flying (.receive freshCycle) with turns := [.block, .chan (.answerRead (.byte 0x0F)), .block] }
    (match core.run 3 s with
      | .next t => t.flight == some (.receive (.sync (.scan (some 0x0F)))) && t.requests == [.read]
      | _ => false) = true := by decide
/-- 60_exceptions.md R309: the host reads a completion once `BUSY` is 0. -/
theorem test_readCompletion : nextIs (step { State.reset with status := 5, turns := [.host .readCompletion] })
    (fun t => t.host.completions == [{ status := 5, result := 0 }]) = true := by decide

theorem witness_ResetSatisfiesInvariant : Config.vectors.wf = true := by decide

/-- A state in the middle of an acknowledged `SEND` satisfies the invariant, and steps. -/
theorem witness_StepKeepsInvariant : ∃ s t : State, s.Inv ∧ step s = .next t ∧ s.busy = true ∧ t.busy = true := by
  refine ⟨{ flying (.sendAcked sentFrame 1 .waitQuery) with trkCounter := 1, trkPending := 1 }, _, ?_, rfl, rfl, rfl⟩
  constructor
  · rfl
  · rfl
  · decide
  · decide
  · decide
  · decide
  · intro f hf
    cases hf
    exact ⟨⟨by decide, 0x05, 0x01, 0x01, by decide, by decide, rfl⟩, by decide, by decide, by decide, True.intro⟩

theorem witness_UnusedOperandBitsIgnored : opField 0x0256FFFF = Opcode.crcByte.byte ∧
    decode 0x0256FFFF = .instr (.crcByte 0x56) := by decide

theorem witness_ReservedOpcodesRejected : Opcode.ofByte? (opField 0x03000000) = none ∧
    Opcode.ofByte? (opField 0x0F000000) = none ∧ Opcode.ofByte? (opField 0x12000000) = none ∧
    Opcode.ofByte? (opField 0x41000000) = none ∧ Opcode.ofByte? (opField 0xFF010203) = none := by decide

theorem witness_AssemblerReadsEveryCommand : commandOf .trkMark [2, 0, 1] = some (.trkMark 2 false true) := by decide

/-- The encoding clauses of the commands' statements: a word with each opcode. -/
theorem witness_NopDoesNothing : opField 0x00FFFFFF = 0x00 := by decide
theorem witness_RegReadReadsEachRegister : opField 0x40080000 = 0x40 ∧ 0x09 ≤ (0x09 : Byte).toNat ∧
    0x09 ≤ (0xFF : Byte).toNat := by decide
theorem witness_CrcInitClears : opField 0x01000000 = 0x01 := by decide
theorem witness_CrcByteFeedsTheRegister : opField 0x02310000 = 0x02 ∧
    (offering [0x01000000, 0x02310000, 0x02320000]).Ready ∧
    (offering [0x01000000, 0x02310000, 0x02320000]).host.port =
      (Instr.crcInit :: ([0x31, 0x32] : List Byte).map .crcByte).map encode :=
  ⟨by decide, offering_ready _, by decide⟩
theorem witness_ChecksumAlgorithm : (0 : Nat) < 16 ∧ (15 : Nat) < 16 := by decide
theorem witness_ChecksumDetectsOneBadByte : (0x03 : Byte) ≠ 0x02 := by decide
theorem witness_BitAndByteHelpers : (0 : Nat) < 8 ∧ (7 : Nat) < 8 := by decide

theorem witness_TrkAllocAllocates : opField 0x30000000 = 0x30 ∧ (0 : Nat) < 64 ∧ (63 : Nat) < 64 ∧
    nextIs (exec .trkAlloc State.reset) (fun t => t.trkCounter == 1) = true ∧
    (State.reset.trkCounter.toNat + 256 - (0xE0 : Byte).toNat) % 256 = State.reset.cfg.w.width := by decide

/-- Ids at the edges of the window of the reset state: distances 1 and 32 inside, 0 and 33 outside. -/
theorem witness_TrkMarkMarks : opField 0x31000001 = 0x31 ∧
    State.reset.dist 0xFF = 1 ∧ State.reset.dist 0xE0 = State.reset.cfg.w.width ∧
    State.reset.dist 0x00 = 0 ∧ State.reset.dist 0xDF = State.reset.cfg.w.width + 1 := by decide

theorem witness_TrackerQueriesAnswer : opField 0x32E00000 = 0x32 ∧ opField 0x33E00000 = 0x33 ∧
    State.reset.dist 0xE0 = 32 ∧ State.reset.dist 0xDF = 33 := by decide

theorem witness_AllocationKeepsTheMapping :
    (State.reset.inWindow 0xE1 = true ∧ State.reset.pos 0xE1 + 1 < State.reset.cfg.w.width) ∧
    (State.reset.inWindow 0xE0 = true ∧ State.reset.pos 0xE0 + 1 = State.reset.cfg.w.width) := by decide

theorem witness_MarkIsWhatQueriesAnswer : State.reset.inWindow 0xFF = true ∧ (0xE0 : Byte) ≠ 0xFF ∧
    State.reset.inWindow 0x00 = false ∧ State.reset.inWindow 0xDF = false := by decide

theorem witness_LaggingIdIsEvicted : 31 < State.reset.cfg.w.width ∧ State.reset.cfg.w.width ≤ 32 ∧
    State.reset.cfg.w.width ≤ 255 := by decide

theorem witness_AllocationsWrapWithoutGap : 31 < State.reset.cfg.w.width ∧
    State.reset.windowId 31 = State.reset.windowId 31 := by decide

theorem witness_WindowQueriesSucceed : 0 < State.reset.cfg.w.width ∧ 31 < State.reset.cfg.w.width ∧
    256 - State.reset.cfg.w.width ≤ (0xE0 : Byte).toNat ∧ ¬ 256 - State.reset.cfg.w.width ≤ (0xDF : Byte).toNat := by decide

theorem witness_FrameLayout : ([] : List Byte).length ≤ 65535 ∧ (List.replicate 65535 (0 : Byte)).length ≤ 65535 :=
  ⟨by decide, by rw [List.length_replicate]⟩

theorem witness_FrameRoundTrip : ([0x01, 0x02, 0x03] : List Byte).length ≤ 65535 := by decide

/-- V-COD-15: a garbage that ends in `SYNC0`, with two different marker bytes; and one that does not, with equal ones. -/
theorem witness_FrameFoundBehindGarbage :
    (([] : List Byte).length ≤ 65535 ∧ markerFree Config.vectors [0x00, 0x0F] = true ∧
      Config.vectors.sync0 ≠ Config.vectors.sync1) ∧
    (markerFree { Config.vectors with sync1 := 0x0F } [0x0F, 0x33] = true ∧
      ([0x0F, 0x33] : List Byte).getLast? ≠ some Config.vectors.sync0) := by decide

theorem witness_TxbClearEmpties : opField 0x10000000 = 0x10 := by decide
theorem witness_TxbPushAppends : opField 0x11020000 = 0x11 ∧ ({ State.reset with txb := [0x01] }).txb.length ≠ 65535 ∧
    ({ State.reset with txb := List.replicate 65535 0 }).txb.length = 65535 :=
  ⟨by decide, by decide, by rw [List.length_replicate]⟩

/-- A `SEND` accepted, its `ALLOC` to come. -/
theorem witness_SendTakesPayloadAndAllocates : (flying (.sendAlloc 0x05 0x01 0x01 [0x07])).Runs (.sendAlloc 0x05 0x01 0x01 [0x07]) :=
  ⟨rfl, rfl, rfl, rfl⟩

/-- V-TX-4. -/
theorem witness_SendWithoutAckWritesOnce :
    let s := { scripted [] [.ok, .ok] [] with txb := [0x01, 0x02, 0x03] }
    s.Ready ∧ (0x05 : Byte) ≠ 0x00 ∧ (0x00 : Byte).getLsbD 0 = false ∧
      s.chan.wr = List.replicate (writeCount (builtFrame 0x05 0x01 0x00 s.txb s)) .ok ++ [] :=
  ⟨⟨rfl, rfl, rfl, rfl⟩, by decide, by decide, rfl⟩

/-- V-TX-13 and V-TX-14. -/
theorem witness_SendWriteErrorCompletes :
    let s := { flying (.sendOnce sentFrame .head) with chan := { rx := [], wr := [.err 4], tx := [] } }
    let t := { flying (.sendAcked sentFrame 1 (.write .payload)) with chan := { rx := [], wr := [.err 0], tx := [] } }
    (s.Runs (.sendOnce sentFrame .head) ∧ s.chan.wr = .err 4 :: []) ∧
    (t.Runs (.sendAcked sentFrame 1 (.write .payload)) ∧ t.chan.wr = .err 0 :: []) :=
  ⟨⟨⟨rfl, rfl, rfl, rfl⟩, rfl⟩, ⟨rfl, rfl, rfl, rfl⟩, rfl⟩

/-- The header of an ack frame of id 0: `ACK0`, `ACK0F`, one with another payload checksum and no payload, and
`ACKP`, with a payload. -/
theorem validFrame_acks :
    (∀ aflags pcsLo pcsHi : Byte, validFrame [0x01, 0x00, 0x00, 0x01, aflags, 0x00, 0x00, pcsLo, pcsHi] []) ∧
    validFrame [0x01, 0x00, 0x00, 0x01, 0x00, 0x01, 0x00, 0xC0, 0x6A] [0x99] :=
  ⟨fun _ _ _ => ⟨rfl, by show 0 = (join16 0x00 0x00).toNat; decide, fun h => absurd rfl h⟩, rfl, by decide, fun _ => by decide⟩

/-- V-TX-6 and V-TX-7: the ack of id 0, without and with the failure flag. -/
theorem witness_AckedSendResolves : ∀ aflags : Byte,
    let ah : List Byte := [0x01, 0x00, 0x00, 0x01, aflags, 0x00, 0x00, 0x00, 0x00]
    let s := scripted (asBytes (wireFrame Config.vectors ah [])) [.ok] []
    s.Ready ∧ (0x05 : Byte) ≠ 0x00 ∧ (0x01 : Byte).getLsbD 0 = true ∧ validFrame ah [] ∧
      (headerOf ah).ptype = 0x00 ∧ (headerOf ah).mid = s.trkCounter ∧
      s.chan.wr = List.replicate (writeCount (builtFrame 0x05 0x01 0x01 s.txb s)) .ok ++ [] ∧
      s.chan.rx = asBytes (wireFrame s.cfg ah []) ++ [] :=
  fun aflags => ⟨scripted_ready _ _ _, by decide, by decide, validFrame_acks.1 aflags 0 0, rfl, rfl, rfl,
    (List.append_nil _).symm⟩

/-- V-TX-8, and the same with the failure flag. -/
theorem witness_RetryWritesTheSameFrame : ∀ aflags : Byte,
    let ah : List Byte := [0x01, 0x00, 0x00, 0x01, aflags, 0x00, 0x00, 0x00, 0x00]
    let s := scripted (.err :: asBytes (wireFrame Config.vectors ah [])) [.ok, .ok] []
    s.Ready ∧ (0x05 : Byte) ≠ 0x00 ∧ (0x01 : Byte).getLsbD 0 = true ∧ 2 ≤ s.cfg.maxAttempts ∧ validFrame ah [] ∧
      (headerOf ah).ptype = 0x00 ∧ (headerOf ah).mid = s.trkCounter ∧
      s.chan.wr = List.replicate (writeCount (builtFrame 0x05 0x01 0x01 s.txb s) + writeCount (builtFrame 0x05 0x01 0x01 s.txb s)) .ok ++ [] ∧
      s.chan.rx = .err :: asBytes (wireFrame s.cfg ah []) ++ [] :=
  fun aflags => ⟨scripted_ready _ _ _, by decide, by decide, Nat.le_succ 2, validFrame_acks.1 aflags 0 0, rfl, rfl, rfl,
    (List.append_nil _).symm⟩

/-- P6, with the three attempts of the default configuration. -/
theorem witness_ExhaustedSendTimesOut :
    let s := scripted [.err, .err, .err] [.ok, .ok, .ok] []
    s.Ready ∧ (0x05 : Byte) ≠ 0x00 ∧ (0x01 : Byte).getLsbD 0 = true ∧
      s.chan.wr = List.replicate (s.cfg.maxAttempts * writeCount (builtFrame 0x05 0x01 0x01 s.txb s)) .ok ++ [] ∧
      s.chan.rx = List.replicate s.cfg.maxAttempts .err ++ [] :=
  ⟨scripted_ready _ _ _, by decide, by decide, rfl, rfl⟩

theorem witness_RetransmissionIsIdentical :
    let s := { flying (.sendAcked sentFrame 1 (.waitReceive freshCycle)) with chan := { rx := [.err], wr := [], tx := [] } }
    s.busy = true ∧ s.nextTurn ≠ .host .reset ∧ s.flight = some (.sendAcked sentFrame 1 (.waitReceive freshCycle)) ∧
      ∃ t, step s = .next t := ⟨rfl, by decide, rfl, _, rfl⟩

/-- Its clause on a write. -/
theorem witness_RetransmissionIsIdentical_write :
    let s := { flying (.sendAcked sentFrame 2 (.write .head)) with chan := { rx := [], wr := [.ok], tx := [] } }
    s.busy = true ∧ s.nextTurn = .block ∧ s.flight = some (.sendAcked sentFrame 2 (.write .head)) ∧ s.chan.wr = [.ok] ∧
      ∃ t, step s = .next t ∧ t.requests = [.write sentFrame.head] := ⟨rfl, rfl, rfl, rfl, _, rfl, rfl⟩

/-- One witness for each end of a receive cycle that the wait distinguishes. -/
theorem witness_WaitContinuesOrEnds :
    let waiting := fun (c : RxCycle) (rx : List RxAnswer) (wr : List WrAnswer) =>
      { flying (.sendAcked sentFrame 3 (.waitReceive c)) with chan := { rx := rx, wr := wr, tx := [] } }
    let h := headerOf [0x02, 0x37, 0x09, 0x03, 0x01, 0x01, 0x00, 0x00, 0x00]
    let a := headerOf [0x02, 0x37, 0x00, 0x03, 0x00, 0x01, 0x00, 0x00, 0x00]
    (∀ c rx wr, (waiting c rx wr).Runs (.sendAcked sentFrame 3 (.waitReceive c))) ∧
    (∃ t, cycleStep freshCycle (waiting freshCycle [.err] []) = .done .chanErr t) ∧
    (∃ t, cycleStep (.ackWrite h true) (waiting (.ackWrite h true) [] [.ok]) = .done (.procErr h true) t) ∧
    (∃ t, cycleStep (.ackWrite h false) (waiting (.ackWrite h false) [] [.ok]) = .done (.delivered h true) t) ∧
    (∃ t, cycleStep (.sync (.payload h [0x01] 0xC0C1)) (waiting (.sync (.payload h [0x01] 0xC0C1)) [] []) = .done (.noFrame h) t) ∧
    (∃ t, cycleStep (.sync (.payload a [0x00] 0x0000)) (waiting (.sync (.payload a [0x00] 0x0000)) [] []) = .done (.ack a) t) :=
  ⟨fun _ _ _ => ⟨rfl, rfl, rfl, rfl⟩, ⟨_, rfl⟩, ⟨_, rfl⟩, ⟨_, rfl⟩, ⟨_, rfl⟩, ⟨_, rfl⟩⟩

/-- A state (not reached, R190) whose wait queries an id outside the window; the second clause's state is that
of `witness_StepKeepsInvariant`. -/
theorem witness_WaitEvictionUnreachable :
    (let s := flying (.sendAcked sentFrame 1 .waitQuery)
     s.Runs (.sendAcked sentFrame 1 .waitQuery) ∧ s.queryPending sentFrame.mid = .outOfWindow) ∧
    ∃ s : State, s.Inv ∧ s.flight = some (.sendAcked sentFrame 1 .waitQuery) := by
  refine ⟨⟨⟨rfl, rfl, rfl, rfl⟩, rfl⟩,
    { flying (.sendAcked sentFrame 1 .waitQuery) with trkCounter := 1, trkPending := 1 }, ?_, rfl⟩
  refine ⟨rfl, rfl, by decide, by decide, by decide, by decide, ?_⟩
  intro f hf
  cases hf
  exact ⟨⟨by decide, 0x05, 0x01, 0x01, by decide, by decide, rfl⟩, by decide, by decide, by decide, True.intro⟩

theorem witness_ReceiveStartsFreshCycle : opField 0x21000000 = 0x21 := by decide

/-- V-RX-10 to V-RX-12: an ack with a payload; and an ack without one, with any payload checksum. -/
theorem witness_ReceiveAppliesAck :
    let ready := fun h p : List Byte => scripted (asBytes (wireFrame Config.vectors h p)) [] []
    let h : List Byte := [0x01, 0x00, 0x00, 0x01, 0x00, 0x01, 0x00, 0xC0, 0x6A]
    let z : List Byte := [0x01, 0x00, 0x00, 0x01, 0x00, 0x00, 0x00, 0x34, 0x12]
    ((ready h [0x99]).Ready ∧ validFrame h [0x99] ∧ (headerOf h).ptype = 0x00 ∧
      (ready h [0x99]).chan.rx = asBytes (wireFrame Config.vectors h [0x99]) ++ []) ∧
    (ready z []).Ready ∧ validFrame z [] ∧ (headerOf z).ptype = 0x00 ∧
      (ready z []).chan.rx = asBytes (wireFrame Config.vectors z []) ++ [] :=
  ⟨⟨scripted_ready _ _ _, validFrame_acks.2, rfl, (List.append_nil _).symm⟩,
    scripted_ready _ _ _, validFrame_acks.1 _ _ _, rfl, (List.append_nil _).symm⟩

/-- V-RX-3 to V-RX-5 (`F3`, which asks for an ack), the same with other flags, and `FZ` (V-COD-18). -/
theorem witness_ReceiveDispatchesFrame : ∀ process : Option HdAnswer, ∀ flags : Byte,
    let h : List Byte := [0x02, 0x37, 0x09, 0x03, flags, 0x02, 0x00, 0xBE, 0x9F]
    let s := scripted (asBytes (wireFrame Config.vectors h [0xAA, 0x55]))
      ((if flags.getLsbD 0 then [.ok] else []) ++ [])
      ((match process with | none => [.fail] | some a => [.ok, a]) ++ [])
    (s.Ready ∧ validFrame h [0xAA, 0x55] ∧ (headerOf h).ptype ≠ 0x00 ∧
      s.chan.rx = asBytes (wireFrame s.cfg h [0xAA, 0x55]) ++ [] ∧
      s.handler.answers = (match process with | none => [.fail] | some a => [.ok, a]) ++ [] ∧
      s.chan.wr = (if (headerOf h).flags.getLsbD 0 then [.ok] else []) ++ []) ∧
    validFrame [0x01, 0x00, 0x05, 0x01, 0x00, 0x00, 0x00, 0x34, 0x12] [] :=
  fun _ _ => ⟨⟨scripted_ready _ _ _, ⟨rfl, by show 2 = (join16 0x02 0x00).toNat; decide,
    fun _ => by show crc16 [0xAA, 0x55] = join16 0xBE 0x9F; decide +kernel⟩, by show (0x09 : Byte) ≠ 0x00; decide,
    (List.append_nil _).symm, rfl, rfl⟩, rfl, rfl, fun h => absurd rfl h⟩

theorem witness_AckWriteErrorWins : ∀ a : WrAnswer, ∀ h : Header, ∀ failed : Bool,
    let s := { flying (.receive (.ackWrite h failed)) with chan := { rx := [], wr := [a], tx := [] } }
    s.Runs (.receive (.ackWrite h failed)) ∧ s.chan.wr = a :: [] := fun _ _ _ => ⟨⟨rfl, rfl, rfl, rfl⟩, rfl⟩

/-- V-RX-8 (`F2X`). -/
theorem witness_PayloadMismatchProcessesNothing :
    let h : List Byte := [0x01, 0x00, 0x05, 0x01, 0x01, 0x03, 0x00, 0x10, 0xA1]
    let p : List Byte := [0x01, 0x02, 0x02]
    let s := scripted (asBytes (wireFrame Config.vectors h p)) [] []
    s.Ready ∧ h.length = 9 ∧ headerLen (headerOf h) ≠ 0 ∧ p.length = (headerLen (headerOf h)).toNat ∧
      crc16 p ≠ headerPcs (headerOf h) ∧
      s.chan.rx = asBytes (wireFrame s.cfg h p) ++ [] :=
  ⟨scripted_ready _ _ _, rfl, by decide +kernel, by decide +kernel, by decide +kernel, (List.append_nil _).symm⟩

/-- V-RX-9 (`F1X`), in a `RECEIVE` and in the wait of a `SEND`. -/
theorem witness_HeaderMismatchRescans :
    let h : List Byte := [0x01, 0x00, 0x05, 0xFE, 0x00, 0x00, 0x00, 0x00, 0x00]
    let bad := fun f : Flight =>
      { flying f with chan := { rx := asBytes ([0x0F, 0x0A] ++ h ++ [0x59, 0x41]), wr := [], tx := [] } }
    h.length = 9 ∧ join16 0x59 0x41 ≠ crc16 h ∧
    (Flight.receive freshCycle).inCycle freshCycle ∧
    (Flight.sendAcked sentFrame 1 (.waitReceive freshCycle)).inCycle freshCycle ∧
    ∀ f : Flight, (bad f).Runs f ∧ (bad f).turns = [] ∧
      (bad f).chan.rx = asBytes ([(bad f).cfg.sync0, (bad f).cfg.sync1] ++ h ++ [0x59, 0x41]) ++ [] :=
  ⟨rfl, by decide +kernel, .inl rfl, .inr ⟨_, _, rfl⟩,
    fun _ => ⟨⟨rfl, rfl, rfl, rfl⟩, rfl, (List.append_nil _).symm⟩⟩

/-- In each phase in which the synchronizer reads. -/
theorem witness_ReadErrorEndsReceive :
    let s := fun y => { flying (.receive (.sync y)) with chan := { rx := [.err], wr := [], tx := [] } }
    (∀ y, (s y).Runs (.receive (.sync y)) ∧ (s y).chan.rx = .err :: []) ∧
    syncCheck (.scan none) = none ∧ syncCheck (.header [] 0) = none ∧
    syncCheck (.hcs (List.replicate 9 0) [0x01] 0) = none ∧
    syncCheck (.payload (headerOf [0, 0, 0, 0, 0, 1, 0, 0, 0]) [] 0) = none :=
  ⟨fun _ => ⟨⟨rfl, rfl, rfl, rfl⟩, rfl⟩, rfl, rfl, rfl, rfl⟩

/-- The rules over every step: a busy state that steps and stays busy, and an idle one that accepts a word. -/
theorem witness_BusyBlockKeepsStatusAndPort :
    (∃ t, step { flying (.receive freshCycle) with chan := { rx := [.byte 0x0F], wr := [], tx := [] } } = .next t ∧
      t.busy = true) ∧ ∃ t, step (offering [0x21000000]) = .next t ∧ t.busy = true := ⟨⟨_, rfl, rfl⟩, _, rfl, rfl⟩

theorem witness_StandaloneCrcUntouched :
    (Instr.nop.opcode ≠ .crcInit ∧ Instr.nop.opcode ≠ .crcByte ∧ ∃ t, exec .nop State.reset = .next t) ∧
    let s := { flying (.receive freshCycle) with chan := { rx := [.byte 0x0F], wr := [], tx := [] } }
    s.busy = true ∧ s.nextTurn ≠ .host .reset ∧ ∃ t, step s = .next t := ⟨⟨by decide, by decide, _, rfl⟩, rfl, by decide, _, rfl⟩

theorem witness_CounterAdvancesByAllocationOnly :
    ((offering [0x30000000]).nextTurn ≠ .host .reset ∧
      ∃ t, step (offering [0x30000000]) = .next t ∧ t.trkCounter = 1) ∧
    ∃ t, step (offering [0x20050100]) = .next t ∧ t.flight = some (.sendAlloc 0x05 0x01 0x00 []) :=
  ⟨⟨by decide, _, rfl, rfl⟩, _, rfl, rfl⟩

/-- An ack frame checked, an `ALLOC`, and a step that is neither. -/
theorem witness_CommandInFlightChangesOnlyMarks :
    let a := headerOf [0x02, 0xFF, 0x00, 0x03, 0x02, 0x01, 0x00, 0x00, 0x00]
    let s := flying (.receive (.sync (.payload a [0x00] 0)))
    let r := { flying (.receive freshCycle) with chan := { rx := [.byte 0x0F], wr := [], tx := [] } }
    (s.busy = true ∧ s.nextTurn = .block ∧ s.ackDue a ∧ ∃ t, step s = .next t ∧ t.trkFailed = 1) ∧
    (flying (.sendAlloc 0x05 0x01 0x00 [])).flight = some (.sendAlloc 0x05 0x01 0x00 []) ∧
    r.busy = true ∧ r.nextTurn = .block ∧ (∀ ptype ver flags p, r.flight ≠ some (.sendAlloc ptype ver flags p)) ∧
      (∀ h, ¬ r.ackDue h) ∧ ∃ t, step r = .next t := by
  refine ⟨⟨rfl, rfl, ⟨_, _, _, rfl, .inl rfl, rfl, rfl⟩, _, rfl, by decide⟩, rfl, rfl, rfl, by intros; simp [flying, State.inFlight], ?_, _, rfl⟩
  rintro h ⟨f, y, p, hf, hc, hy, -⟩
  cases hf
  obtain hc | ⟨_, _, hc⟩ := hc
  · cases hc
    cases hy
  · cases hc

theorem witness_ParametersAreFixed : ∃ t, step (offering [0x30000000]) = .next t := ⟨_, rfl⟩

/-- A step with each kind of request. -/
theorem witness_OneRequestAtATime :
    (∃ t, step { flying (.receive freshCycle) with chan := { rx := [.err], wr := [], tx := [] } } = .next t) ∧
    (∃ t, step { flying (.sendOnce sentFrame .head) with chan := { rx := [], wr := [.ok], tx := [] } } = .next t) ∧
    ∃ t, step { flying (.receive (.create (headerOf []) none)) with handler := { answers := [.ok] } } = .next t :=
  ⟨⟨_, rfl⟩, ⟨_, rfl⟩, _, rfl⟩

/-- One witness for each way to hold: the phases stand in both commands that run a receive cycle. -/
theorem witness_UnansweredBlockHolds :
    (∀ f, (flying f).cfg.wf = true ∧ (flying f).nextTurn = .block ∧ (flying f).busy = true ∧ (flying f).chan.rx = [] ∧
      (flying f).chan.wr = [] ∧ (flying f).handler.answers = [] ∧ (flying f).flight = some f) ∧
    (∀ c, (Flight.receive c).inCycle c ∧ ∀ f n, (Flight.sendAcked f n (.waitReceive c)).inCycle c) ∧
    syncCheck freshScan = none ∧
    State.reset.cfg.wf = true ∧ State.reset.nextTurn = .block ∧ State.reset.busy = false ∧ State.reset.host.port = [] :=
  ⟨fun _ => ⟨rfl, rfl, rfl, rfl, rfl, rfl, rfl⟩, fun _ => ⟨.inl rfl, fun _ _ => .inr ⟨_, _, rfl⟩⟩, rfl, rfl, rfl, rfl, rfl⟩

theorem witness_PseudoInstructionsExpand : ∃ s : State, s.Ready ∧
    s.host.port = assembleLines [.crcBuf [0x31, 0x32]] ++ [0x00000000] :=
  ⟨offering (assembleLines [.crcBuf [0x31, 0x32]] ++ [0x00000000]), offering_ready _, rfl⟩

theorem witness_SendPCarriesItsBytes : ∃ s : State, s.Ready ∧ (0x05 : Byte) ≠ 0x00 ∧
    ([0x01, 0x02] : List Byte).length ≤ 65535 ∧
    s.host.port = assembleLines [.sendP 0x05 0x01 0x01 [0x01, 0x02]] ++ [] :=
  ⟨offering (assembleLines [.sendP 0x05 0x01 0x01 [0x01, 0x02]] ++ []), offering_ready _, by decide, by decide, rfl⟩

end Sys2Proof.Tests
end

section
/-! The configurations of 00_scope.md R9, and that a configured block steps in every state (60_exceptions.md
R312) and keeps its parameters (10_state.md R21). -/

namespace Sys2Proof

theorem Window.ofNat?_eq_none_iff (n : Nat) : Window.ofNat? n = none ↔ n ≠ 32 ∧ n ≠ 64 := by
  unfold Window.ofNat?
  split <;> simp_all

theorem Window.width_of_ofNat? {n : Nat} {w : Window} (h : Window.ofNat? n = some w) : w.width = n := by
  unfold Window.ofNat? at h
  split at h <;> cases h <;> rfl

theorem Config.wf_iff (c : Config) : c.wf = true ↔ 1 ≤ c.maxAttempts ∧ c.maxAttempts < 2 ^ 64 := by
  simp only [Config.wf, Bool.and_eq_true, decide_eq_true_eq]

theorem Config.not_wf_iff (c : Config) : c.wf = false ↔ c.maxAttempts = 0 ∨ 2 ^ 64 ≤ c.maxAttempts := by
  rw [← Bool.not_eq_true, Config.wf_iff]
  omega

/-- A configuration that is built holds the caller's numbers. -/
theorem Config.build?_some {pv s0 s1 : Byte} {m w : Nat} {c : Config} (h : Config.build? pv m s0 s1 w = some c) :
    c.protoVersion = pv ∧ c.maxAttempts = m ∧ c.sync0 = s0 ∧ c.sync1 = s1 ∧ c.w.width = w := by
  unfold Config.build? at h
  split at h
  · cases h
  · rename_i win hwin
    dsimp only at h
    split at h
    · cases h
      exact ⟨rfl, rfl, rfl, rfl, Window.width_of_ofNat? hwin⟩
    · cases h

theorem Config.build?_eq_none_iff (pv s0 s1 : Byte) (m w : Nat) :
    Config.build? pv m s0 s1 w = none ↔ m = 0 ∨ 2 ^ 64 ≤ m ∨ (w ≠ 32 ∧ w ≠ 64) := by
  rw [← Window.ofNat?_eq_none_iff, ← or_assoc]
  unfold Config.build?
  cases Window.ofNat? w with
  | none => simp
  | some win =>
    have bound := Config.not_wf_iff { protoVersion := pv, maxAttempts := m, sync0 := s0, sync1 := s1, w := win }
    simpa using bound

end Sys2Proof

namespace Sys2Proof.Machine

/-- Log entry 12: without a block there is no step. -/
theorem step_refused {s : State} (h : s.cfg.wf = false) : step s = .refused .noBlock := by
  simp [step, h]

/-- A configured machine takes the step of the agent whose turn it is. -/
theorem step_turn {s : State} (h : s.cfg.wf = true) : step s = turnStep s.nextTurn s.passTurn := by
  simp [step, h]

/-- R312: the block steps in every state. -/
theorem blockStep_next (s : State) : ∃ t, blockStep s = .next t := by
  unfold blockStep
  split
  · exact ⟨_, rfl⟩
  · split
    · exact ⟨_, rfl⟩
    · exact runWord_next _ _

theorem turnStep_next (a : Turn) (s : State) : ∃ t, turnStep a s = .next t := by
  cases a with
  | block => exact blockStep_next s
  | host m => exact ⟨_, rfl⟩
  | chan m => exact ⟨_, rfl⟩
  | handler a => exact ⟨_, rfl⟩

theorem step_next {s : State} (h : s.cfg.wf = true) : ∃ t, step s = .next t := by
  rw [step_turn h]
  exact turnStep_next _ _

@[simp] theorem State.completeQuery_cfg (s : State) (q : QueryAnswer) : (s.completeQuery q).cfg = s.cfg := by
  cases q <;> rfl

/-- R21: no command changes a parameter. -/
theorem exec_cfg {i : Instr} {s t : State} (h : exec i s = .next t) : t.cfg = s.cfg := by
  cases i with
  | nop => cases h; rfl
  | crcInit => cases h; rfl
  | crcByte b => cases h; rfl
  | txbClear => cases h; rfl
  | txbPush b =>
    simp only [exec, execTxbPush] at h
    split at h <;> cases h <;> rfl
  | send ptype ver flags =>
    simp only [exec, execSend] at h
    split at h <;> cases h <;> rfl
  | receive => cases h; rfl
  | trkAlloc => cases h; rfl
  | trkMark m p f => cases h; simp
  | trkQpend m => cases h; simp
  | trkQfail m => cases h; simp
  | regRead idx =>
    simp only [exec, execRegRead] at h
    split at h <;> cases h <;> rfl

/-- R21, R332: no step changes a parameter. -/
theorem step_cfg {s t : State} (h : step s = .next t) : t.cfg = s.cfg := by
  obtain ⟨-, is⟩ := step_is h
  cases is with
  | reset => rfl
  | host _ notReset => exact (hostStep_same _ _ notReset).cfg
  | chan => exact (chanStep_same _ _).cfg
  | handler => exact (handlerStep_same _ _).cfg
  | busy => exact (advance_can _).1.cfg
  | idle => rfl
  | command _ _ _ _ ran => exact (exec_cfg ran :)
  | reserved => rfl

/-- Settles O1: R9's configurations by what `Config.build?` answers, and each step by the turn it takes. -/
theorem configurationsRefused : Obligations.ConfigurationsRefused := by
  refine ⟨fun _ _ _ _ _ _ => Config.build?_some, fun pv m s0 s1 w => Config.build?_eq_none_iff pv s0 s1 m w,
    fun _ _ => rfl, fun s => ⟨fun out => step_refused ((Config.not_wf_iff _).mpr out), fun within => ?_⟩⟩
  obtain ⟨t, ht⟩ := step_next ((Config.wf_iff _).mpr within)
  exact ⟨t, ht, step_cfg ht⟩

end Sys2Proof.Machine
end

section
/-! What arrives from the agents while the block works (00_scope.md R11): commands and answers behind those that
are there. A step of the block that does not hold takes what it takes from the front, so it does the same before
and after an arrival. -/

namespace Sys2Proof.Machine

/-- Commands and answers the agents add behind those ready, and the turns to come after them. -/
structure Arrivals where
  words : List Word := []
  rx : List RxAnswer := []
  wr : List WrAnswer := []
  answers : List HdAnswer := []
  turns : List Turn := []

/-- The state with these arrivals. -/
def State.arrive (s : State) (e : Arrivals) : State :=
  { s with
    chan := { s.chan with rx := s.chan.rx ++ e.rx, wr := s.chan.wr ++ e.wr }
    handler := { answers := s.handler.answers ++ e.answers }
    host := { s.host with port := s.host.port ++ e.words }
    turns := e.turns }

/-- What the step of an agent beside the block brings; nothing for a reset or a reading. -/
def Turn.arrival : Turn → Arrivals
  | .host (.offer w) => { words := [w] }
  | .chan (.answerRead a) => { rx := [a] }
  | .chan (.answerWrite a) => { wr := [a] }
  | .handler a => { answers := [a] }
  | _ => {}

/-- Nothing arrives, but other turns are to come. -/
theorem State.arrive_turns (s : State) (ts : List Turn) : s.arrive { turns := ts } = { s with turns := ts } := by
  simp [State.arrive]

/-- But for a reset and a reading, the step of another agent is an arrival. -/
theorem turnStep_arrival {a : Turn} (s : State) (rest : List Turn) (notBlock : a ≠ .block)
    (notReset : a ≠ .host .reset) (notReading : a ≠ .host .readCompletion) :
    turnStep a { s with turns := rest } = .next (s.arrive { a.arrival with turns := rest }) := by
  cases a with
  | block => exact absurd rfl notBlock
  | host m =>
    cases m with
    | offer w => simp [turnStep, hostStep, Turn.arrival, State.arrive]
    | readCompletion => exact absurd rfl notReading
    | reset => exact absurd rfl notReset
  | chan m => cases m <;> simp [turnStep, chanStep, Turn.arrival, State.arrive]
  | handler a => simp [turnStep, handlerStep, Turn.arrival, State.arrive]

/-! ### The block's own operations do not see an arrival -/

section
variable (s : State) (e : Arrivals)

@[simp] theorem State.arrive_cfg : (s.arrive e).cfg = s.cfg := rfl
@[simp] theorem State.arrive_txb : (s.arrive e).txb = s.txb := rfl
@[simp] theorem State.arrive_busy : (s.arrive e).busy = s.busy := rfl
@[simp] theorem State.arrive_flight : (s.arrive e).flight = s.flight := rfl
@[simp] theorem State.queryPending_arrive (m : Byte) : (s.arrive e).queryPending m = s.queryPending m := rfl
@[simp] theorem State.queryFailed_arrive (m : Byte) : (s.arrive e).queryFailed m = s.queryFailed m := rfl
@[simp] theorem regValue_arrive (idx : Byte) : regValue idx (s.arrive e) = regValue idx s := rfl

@[simp] theorem State.complete_arrive (st : Status) (r : Long) :
    (s.arrive e).complete st r = (s.complete st r).arrive e := rfl
@[simp] theorem State.inFlight_arrive (f : Flight) : (s.arrive e).inFlight f = (s.inFlight f).arrive e := rfl
@[simp] theorem State.setTxb_arrive (bytes : List Byte) : (s.arrive e).setTxb bytes = (s.setTxb bytes).arrive e := rfl
@[simp] theorem State.completeSend_arrive (f : SendFrame) (st : Status) :
    (s.arrive e).completeSend f st = (s.completeSend f st).arrive e := rfl

@[simp] theorem State.markId_arrive (m : Byte) (p f : Bool) :
    (s.arrive e).markId m p f = (s.markId m p f).arrive e := by
  have sameWindow : (s.arrive e).inWindow m = s.inWindow m := rfl
  unfold State.markId
  rw [sameWindow]
  split <;> rfl

@[simp] theorem State.completeQuery_arrive (q : QueryAnswer) :
    (s.arrive e).completeQuery q = (s.completeQuery q).arrive e := by
  cases q <;> rfl

end

/-- A command does the same before and after an arrival. -/
theorem exec_arrive {i : Instr} {s t : State} (e : Arrivals) (h : exec i s = .next t) :
    exec i (s.arrive e) = .next (t.arrive e) := by
  cases i with
  | nop => cases h; rfl
  | crcInit => cases h; rfl
  | crcByte b => cases h; rfl
  | txbClear => cases h; rfl
  | txbPush b =>
    simp only [exec, execTxbPush, State.arrive_txb] at h ⊢
    split at h <;> cases h <;> simp [*]
  | send ptype ver flags =>
    simp only [exec, execSend] at h ⊢
    split at h
    · cases h
      rw [if_pos ‹_›]
      rfl
    · cases h
      rw [if_neg ‹_›]
      rfl
  | receive => cases h; rfl
  | trkAlloc => cases h; rfl
  | trkMark m p f => cases h; simp [exec, execTrkMark]
  | trkQpend m => cases h; simp [exec, execTrkQpend]
  | trkQfail m => cases h; simp [exec, execTrkQfail]
  | regRead idx =>
    simp only [exec, execRegRead, regValue_arrive] at h ⊢
    split at h <;> cases h <;> simp [*]

theorem runWord_arrive {w : Word} {s t : State} (e : Arrivals) (h : runWord w s = .next t) :
    runWord w (s.arrive e) = .next (t.arrive e) := by
  unfold runWord at h ⊢
  split at h
  · exact exec_arrive e h
  · cases h; rfl

/-! ### A request that is answered takes the first answer ready (20_memory.md R55, R56, 44_receive.md R218) -/

theorem chanRead_arrive {s t : State} {a : RxAnswer} (e : Arrivals) (h : chanRead s = some (a, t)) :
    chanRead (s.arrive e) = some (a, t.arrive e) := by
  obtain ⟨rest, hrx, rfl⟩ := chanRead_some h
  simp [chanRead, State.arrive, State.record, hrx]

theorem chanWrite_arrive {s t : State} {a : WrAnswer} {bytes : List Byte} (e : Arrivals)
    (h : chanWrite bytes s = some (a, t)) : chanWrite bytes (s.arrive e) = some (a, t.arrive e) := by
  obtain ⟨rest, hwr, rfl⟩ := chanWrite_some h
  simp [chanWrite, State.arrive, State.record, hwr]

theorem handlerAsk_arrive {s t : State} {a : HdAnswer} {r : Request} (e : Arrivals)
    (h : handlerAsk r s = some (a, t)) : handlerAsk r (s.arrive e) = some (a, t.arrive e) := by
  obtain ⟨rest, hans, rfl⟩ := handlerAsk_some h
  simp [handlerAsk, State.arrive, State.record, hans]

/-! ### A step of a receive cycle, of a frame write, and of the command in flight -/

/-- An arrival in the state a step of a receive cycle leaves. -/
def CycleStep.arrive (e : Arrivals) : CycleStep → CycleStep
  | .hold => .hold
  | .more c s => .more c (s.arrive e)
  | .done r s => .done r (s.arrive e)

/-- An arrival in the state a channel write leaves. -/
def WriteStep.arrive (e : Arrivals) : WriteStep → WriteStep
  | .hold => .hold
  | .more p s => .more p (s.arrive e)
  | .written s => .written (s.arrive e)
  | .chanErr s => .chanErr (s.arrive e)

theorem afterHandler_arrive (h : Header) (failed : Bool) (s : State) (e : Arrivals) :
    afterHandler h failed (s.arrive e) = (afterHandler h failed s).arrive e := by
  unfold afterHandler
  split <;> rfl

theorem cycleChecked_arrive (c : SyncStep) (s : State) (e : Arrivals) :
    cycleChecked c (s.arrive e) = (cycleChecked c s).arrive e := by
  unfold cycleChecked
  split
  · rfl
  · unfold dispatchFrame
    split
    · simp [CycleStep.arrive]
    · rfl
  · rfl

theorem cycleRead_arrive {y : Sync} {s : State} (e : Arrivals) (h : cycleRead y s ≠ .hold) :
    cycleRead y (s.arrive e) = (cycleRead y s).arrive e := by
  unfold cycleRead at h ⊢
  cases hr : chanRead s with
  | none => simp [hr] at h
  | some answered =>
    obtain ⟨a, t⟩ := answered
    rw [chanRead_arrive e hr]
    cases a <;> rfl

theorem cycleStep_arrive {c : RxCycle} {s : State} (e : Arrivals) (h : cycleStep c s ≠ .hold) :
    cycleStep c (s.arrive e) = (cycleStep c s).arrive e := by
  cases c with
  | sync y =>
    simp only [cycleStep, cycleSync] at h ⊢
    cases hc : syncCheck y with
    | none => exact cycleRead_arrive e (by simpa [hc] using h)
    | some check => exact cycleChecked_arrive check s e
  | create hd p =>
    simp only [cycleStep, cycleCreate] at h ⊢
    cases hr : handlerAsk (.create hd.pv hd.ptype hd.ver hd.flags) s with
    | none => simp [hr] at h
    | some answered =>
      obtain ⟨a, t⟩ := answered
      rw [handlerAsk_arrive e hr]
      cases a with
      | ok => rfl
      | fail => exact afterHandler_arrive hd true t e
  | process hd p =>
    simp only [cycleStep, cycleProcess] at h ⊢
    cases hr : handlerAsk (.process p) s with
    | none => simp [hr] at h
    | some answered =>
      obtain ⟨a, t⟩ := answered
      rw [handlerAsk_arrive e hr]
      cases a with
      | ok => exact afterHandler_arrive hd false t e
      | fail => exact afterHandler_arrive hd true t e
  | ackWrite hd failed =>
    simp only [cycleStep, cycleAckWrite, State.arrive_cfg] at h ⊢
    cases hr : chanWrite (ackFrame s.cfg hd.mid failed) s with
    | none => simp [hr] at h
    | some answered =>
      obtain ⟨a, t⟩ := answered
      rw [chanWrite_arrive e hr]
      cases a <;> rfl

theorem afterWrite_arrive (f : SendFrame) (p : WritePhase) (s : State) (e : Arrivals) :
    afterWrite f p (s.arrive e) = (afterWrite f p s).arrive e := by
  unfold afterWrite
  split
  · split <;> rfl
  · rfl

theorem writeStep_arrive {f : SendFrame} {p : WritePhase} {s : State} (e : Arrivals) (h : writeStep f p s ≠ .hold) :
    writeStep f p (s.arrive e) = (writeStep f p s).arrive e := by
  unfold writeStep at h ⊢
  cases hr : chanWrite (p.bytes f) s with
  | none => simp [hr] at h
  | some answered =>
    obtain ⟨a, t⟩ := answered
    rw [chanWrite_arrive e hr]
    cases a with
    | ok => exact afterWrite_arrive f p t e
    | err k => rfl

theorem failedAttempt_arrive (f : SendFrame) (n : Nat) (s : State) (e : Arrivals) :
    failedAttempt f n (s.arrive e) = (failedAttempt f n s).arrive e := by
  by_cases last : n = s.cfg.maxAttempts
  · simp [failedAttempt, last]
  · simp [failedAttempt, last]

theorem afterCycle_arrive (f : SendFrame) (n : Nat) (r : CycleResult) (s : State) (e : Arrivals) :
    afterCycle f n r (s.arrive e) = (afterCycle f n r s).arrive e := by
  cases r with
  | chanErr => exact failedAttempt_arrive f n s e
  | noFrame => rfl
  | ack => rfl
  | delivered => rfl
  | procErr => rfl

theorem completeReceive_arrive (r : CycleResult) (s : State) (e : Arrivals) :
    completeReceive r (s.arrive e) = (completeReceive r s).arrive e := by
  cases r <;> rfl

theorem waitQuery_arrive (f : SendFrame) (n : Nat) (s : State) (e : Arrivals) :
    waitQuery f n (s.arrive e) = (waitQuery f n s).arrive e := by
  simp only [waitQuery, State.queryPending_arrive]
  split <;> rfl

theorem resolveSend_arrive (f : SendFrame) (s : State) (e : Arrivals) :
    resolveSend f (s.arrive e) = (resolveSend f s).arrive e := by
  simp only [resolveSend, State.queryFailed_arrive]
  split <;> rfl

theorem receiveStep_arrive {c : RxCycle} {s : State} (e : Arrivals) (h : receiveStep c s ≠ s) :
    receiveStep c (s.arrive e) = (receiveStep c s).arrive e := by
  have goesOn : cycleStep c s ≠ .hold := fun hold => h (by simp [receiveStep, hold])
  unfold receiveStep
  rw [cycleStep_arrive e goesOn]
  cases hc : cycleStep c s with
  | hold => exact absurd hc goesOn
  | more c' t => rfl
  | done r t => exact completeReceive_arrive r t e

theorem waitReceive_arrive {f : SendFrame} {n : Nat} {c : RxCycle} {s : State} (e : Arrivals)
    (h : waitReceive f n c s ≠ s) : waitReceive f n c (s.arrive e) = (waitReceive f n c s).arrive e := by
  have goesOn : cycleStep c s ≠ .hold := fun hold => h (by simp [waitReceive, hold])
  unfold waitReceive
  rw [cycleStep_arrive e goesOn]
  cases hc : cycleStep c s with
  | hold => exact absurd hc goesOn
  | more c' t => rfl
  | done r t => exact afterCycle_arrive f n r t e

theorem attemptWrite_arrive {f : SendFrame} {n : Nat} {p : WritePhase} {s : State} (e : Arrivals)
    (h : attemptWrite f n p s ≠ s) : attemptWrite f n p (s.arrive e) = (attemptWrite f n p s).arrive e := by
  have goesOn : writeStep f p s ≠ .hold := fun hold => h (by simp [attemptWrite, hold])
  unfold attemptWrite
  rw [writeStep_arrive e goesOn]
  cases hw : writeStep f p s with
  | hold => exact absurd hw goesOn
  | more p' t => rfl
  | written t => rfl
  | chanErr t => rfl

theorem sendOnceStep_arrive {f : SendFrame} {p : WritePhase} {s : State} (e : Arrivals)
    (h : sendOnceStep f p s ≠ s) : sendOnceStep f p (s.arrive e) = (sendOnceStep f p s).arrive e := by
  have goesOn : writeStep f p s ≠ .hold := fun hold => h (by simp [sendOnceStep, hold])
  unfold sendOnceStep
  rw [writeStep_arrive e goesOn]
  cases hw : writeStep f p s with
  | hold => exact absurd hw goesOn
  | more p' t => rfl
  | written t => rfl
  | chanErr t => rfl

theorem flightStep_arrive {f : Flight} {s : State} (e : Arrivals) (h : flightStep f s ≠ s) :
    flightStep f (s.arrive e) = (flightStep f s).arrive e := by
  cases f with
  | sendAlloc ptype ver flags payload => rfl
  | sendOnce fr p => exact sendOnceStep_arrive e h
  | sendAcked fr n p =>
    cases p with
    | write w => exact attemptWrite_arrive e h
    | waitQuery => exact waitQuery_arrive fr n s e
    | waitReceive c => exact waitReceive_arrive e h
    | resolve => exact resolveSend_arrive fr s e
  | receive c => exact receiveStep_arrive e h

theorem advance_arrive {s : State} (e : Arrivals) (h : advance s ≠ s) :
    advance (s.arrive e) = (advance s).arrive e := by
  unfold advance at h ⊢
  rw [State.arrive_flight]
  cases hf : s.flight with
  | none => simp [hf] at h
  | some f => exact flightStep_arrive e (by simpa [hf] using h)

/-- The command at the head of the port is there after an arrival too (10_state.md R26). -/
theorem State.offered_arrive {s t : State} {w : Word} (e : Arrivals) (h : s.offered = some (w, t)) :
    (s.arrive e).offered = some (w, t.arrive e) := by
  unfold State.offered at h
  split at h
  · cases h
  · rename_i w' rest hport
    cases h
    simp [State.offered, State.arrive, hport]

/-- A step of the block that does not hold is the same before and after an arrival. -/
theorem blockStep_arrive {s t : State} (e : Arrivals) (h : blockStep s = .next t) (goesOn : t ≠ s) :
    blockStep (s.arrive e) = .next (t.arrive e) := by
  unfold blockStep at h ⊢
  rw [State.arrive_busy]
  cases hb : s.busy with
  | true =>
    simp only [hb, if_true] at h ⊢
    cases h
    rw [advance_arrive e goesOn]
  | false =>
    simp only [hb, Bool.false_eq_true, if_false] at h ⊢
    cases ho : s.offered with
    | none =>
      rw [ho] at h
      cases h
      exact absurd rfl goesOn
    | some accepted =>
      obtain ⟨w, u⟩ := accepted
      rw [ho] at h
      rw [State.offered_arrive e ho]
      exact runWord_arrive e h

/-! ### Two steps in either order -/

theorem runsTo_two {s t u : State} (first : step s = .next t) (second : step t = .next u) : RunsTo 2 s u := by
  simp [RunsTo, Host.Core.run, core, first, second]

/-- The step of the agent whose turn is listed first. -/
theorem step_listed {s : State} (h : s.cfg.wf = true) (a : Turn) (rest : List Turn) :
    step { s with turns := a :: rest } = turnStep a { s with turns := rest } := step_turn h

theorem step_block_listed {s : State} (h : s.cfg.wf = true) (e : Arrivals) (rest : List Turn) :
    step (s.arrive { e with turns := .block :: rest }) = blockStep (s.arrive { e with turns := rest }) := step_turn h

/-- Two turns in a row can be taken whatever they are: nothing traps (R312). -/
theorem runsTo_two_turns {s : State} (h : s.cfg.wf = true) (ts : List Turn) :
    ∃ u, RunsTo 2 { s with turns := ts } u := by
  obtain ⟨t, first⟩ := step_next (s := { s with turns := ts }) h
  obtain ⟨u, second⟩ := step_next (s := t) (by rw [step_cfg first]; exact h)
  exact ⟨u, runsTo_two first second⟩

/-- R55, R56, R218: a step of the block that does not hold, and the step of an agent that brings something, lead
to the same state in either order. -/
theorem blockStep_commutes {s t : State} {a : Turn} (rest : List Turn) (hwf : s.cfg.wf = true)
    (hb : blockStep s = .next t) (goesOn : t ≠ s) (notBlock : a ≠ .block) (notReset : a ≠ .host .reset)
    (notReading : a ≠ .host .readCompletion) :
    RunsTo 2 { s with turns := .block :: a :: rest } (t.arrive { a.arrival with turns := rest }) ∧
    RunsTo 2 { s with turns := a :: .block :: rest } (t.arrive { a.arrival with turns := rest }) := by
  have block_first : step { s with turns := .block :: a :: rest } = .next { t with turns := a :: rest } := by
    have moved := blockStep_arrive { turns := a :: rest } hb goesOn
    rw [State.arrive_turns, State.arrive_turns] at moved
    exact (step_listed hwf _ _).trans moved
  have cfg_t : t.cfg.wf = true := by
    have same : t.cfg = s.cfg := (step_cfg block_first :)
    rw [same]
    exact hwf
  have agent_second : step { t with turns := a :: rest } = .next (t.arrive { a.arrival with turns := rest }) :=
    (step_listed cfg_t a rest).trans (turnStep_arrival t rest notBlock notReset notReading)
  have agent_first : step { s with turns := a :: .block :: rest } =
      .next (s.arrive { a.arrival with turns := .block :: rest }) :=
    (step_listed hwf _ _).trans (turnStep_arrival s _ notBlock notReset notReading)
  have block_second : step (s.arrive { a.arrival with turns := .block :: rest }) =
      .next (t.arrive { a.arrival with turns := rest }) :=
    (step_block_listed hwf _ _).trans (blockStep_arrive { a.arrival with turns := rest } hb goesOn)
  exact ⟨runsTo_two block_first agent_second, runsTo_two agent_first block_second⟩

/-- What a reading of the completion adds (R309, log entry 14). -/
theorem readCompletion_eq (s : State) :
    readCompletion s = { s with host := { s.host with
      completions := s.host.completions ++ (if s.busy then [] else [{ status := s.status, result := s.result }]) } } := by
  unfold readCompletion
  split <;> simp

/-- A configured machine takes the step of this agent where it is that agent's turn. -/
theorem step_of_nextTurn {s : State} {a : Turn} (h : s.cfg.wf = true) (turn : s.nextTurn = a) :
    step s = turnStep a s.passTurn := by
  rw [step_turn h, turn]

/-- Settles O60: each agent's step by the turn it takes; the two orders by what the agent's step brings, which a
block that does not hold leaves behind what it takes. -/
theorem agentsTakeTheirOwnSteps : Obligations.AgentsTakeTheirOwnSteps := by
  refine ⟨fun s hwf => ⟨fun _ => step_of_nextTurn hwf, fun turn => ?_, fun _ => step_of_nextTurn hwf,
    fun _ => step_of_nextTurn hwf, fun _ => step_of_nextTurn hwf⟩, ?_⟩
  · rw [step_of_nextTurn hwf turn]
    exact congrArg Host.Outcome.next (readCompletion_eq s.passTurn)
  · intro s t a rest notReset notReading h goesOn
    obtain ⟨hwf, -⟩ := step_is h
    by_cases isBlock : a = .block
    · subst isBlock
      obtain ⟨u, run⟩ := runsTo_two_turns hwf (.block :: .block :: rest)
      exact ⟨u, run, run⟩
    · have hb : blockStep { s with turns := [] } = .next t := (step_turn hwf).symm.trans h
      exact ⟨_, blockStep_commutes (s := { s with turns := [] }) rest hwf hb goesOn isBlock notReset notReading⟩

end Sys2Proof.Machine
end

section
/-! The invariant of registers and hidden state (`State.Inv`) and that every step keeps it (10_state.md R20 to R35). -/

namespace Sys2Proof.Machine

/-! ### The part of the invariant about the registers -/

/-- What `State.Inv` says of the registers alone, whether or not a command is in flight. -/
structure State.RegistersOk (s : State) : Prop where
  cfgOk : s.cfg.wf = true
  txbFits : s.txb.length ≤ txbCapacity
  pendingFits : s.trkPending &&& windowMask s.cfg.w = s.trkPending
  failedFits : s.trkFailed &&& windowMask s.cfg.w = s.trkFailed
  statusDefined : s.status.toNat ≤ 6

theorem State.Inv.registers {s : State} (h : s.Inv) : s.RegistersOk :=
  ⟨h.cfgOk, h.txbFits, h.pendingFits, h.failedFits, h.statusDefined⟩

theorem Status.code_le (st : Status) : st.code.toNat ≤ 6 := by
  cases st <;> decide

/-- What a command in flight may hold depends on the parameters, the counter and the pending mask only. -/
theorem Flight.wf_congr {s t : State} {f : Flight} (cfg : t.cfg = s.cfg) (counter : t.trkCounter = s.trkCounter)
    (pending : t.trkPending = s.trkPending) (h : f.wf s) : f.wf t := by
  have query := State.queryPending_congr cfg counter pending
  cases f with
  | sendAlloc => exact h
  | sendOnce f p => simpa only [Flight.wf, cfg, counter, query] using h
  | sendAcked f n p => cases p <;> simpa only [Flight.wf, SendPhase.wf, cfg, counter, query] using h
  | receive c => exact h

theorem SameBlock.flight_wf {s t : State} (same : SameBlock s t) {f : Flight} (h : f.wf s) : f.wf t :=
  Flight.wf_congr same.cfg same.trkCounter same.trkPending h

/-- A step that leaves the registers and the hidden state (R309) keeps the invariant. -/
theorem SameRegisters.inv {s t : State} (same : SameRegisters s t) (h : s.Inv) : t.Inv where
  cfgOk := by rw [same.cfg]; exact h.cfgOk
  busyExact := by rw [same.busy, same.flight]; exact h.busyExact
  txbFits := by rw [same.txb]; exact h.txbFits
  pendingFits := by rw [same.cfg, same.trkPending]; exact h.pendingFits
  failedFits := by rw [same.cfg, same.trkFailed]; exact h.failedFits
  statusDefined := by rw [same.status]; exact h.statusDefined
  flightOk f hf := Flight.wf_congr same.cfg same.trkCounter same.trkPending (h.flightOk f (same.flight ▸ hf))

theorem passTurn_same (s : State) : SameRegisters s s.passTurn := by
  constructor <;> rfl

namespace State.RegistersOk

variable {s : State}

theorem sameBlock {t : State} (h : s.RegistersOk) (same : SameBlock s t) : t.RegistersOk where
  cfgOk := by rw [same.cfg]; exact h.cfgOk
  txbFits := by rw [same.txb]; exact h.txbFits
  pendingFits := by rw [same.cfg, same.trkPending]; exact h.pendingFits
  failedFits := by rw [same.cfg, same.trkFailed]; exact h.failedFits
  statusDefined := by rw [same.status]; exact h.statusDefined

theorem setTxb (h : s.RegistersOk) {bytes : List Byte} (fits : bytes.length ≤ txbCapacity) :
    (s.setTxb bytes).RegistersOk := ⟨h.cfgOk, fits, h.pendingFits, h.failedFits, h.statusDefined⟩

theorem setCrc (h : s.RegistersOk) (c : Half) : ({ s with crc := c } : State).RegistersOk :=
  ⟨h.cfgOk, h.txbFits, h.pendingFits, h.failedFits, h.statusDefined⟩

theorem setPort (h : s.RegistersOk) (port : List Word) :
    ({ s with host := { s.host with port := port } } : State).RegistersOk :=
  ⟨h.cfgOk, h.txbFits, h.pendingFits, h.failedFits, h.statusDefined⟩

theorem allocId (h : s.RegistersOk) : s.allocId.RegistersOk :=
  ⟨h.cfgOk, h.txbFits, shiftMask_or_one_fits _ _, shiftMask_fits _ _, h.statusDefined⟩

theorem markId (h : s.RegistersOk) (m : Byte) (p f : Bool) : (s.markId m p f).RegistersOk := by
  obtain ⟨pendingFits, failedFits⟩ := s.markId_fits m p f h.pendingFits h.failedFits
  constructor
  · simpa using h.cfgOk
  · simpa using h.txbFits
  · simpa using pendingFits
  · simpa using failedFits
  · simpa using h.statusDefined

/-- A completed command leaves no hidden state (R33), whatever was in flight before. -/
theorem complete (h : s.RegistersOk) (st : Status) (r : Long) : (s.complete st r).Inv where
  cfgOk := h.cfgOk
  busyExact := rfl
  txbFits := h.txbFits
  pendingFits := h.pendingFits
  failedFits := h.failedFits
  statusDefined := st.code_le
  flightOk f hf := by cases hf

/-- A command that stays in flight brings its own legal hidden state. -/
theorem inFlight (h : s.RegistersOk) {f : Flight} (hf : f.wf s) : (s.inFlight f).Inv where
  cfgOk := h.cfgOk
  busyExact := rfl
  txbFits := h.txbFits
  pendingFits := h.pendingFits
  failedFits := h.failedFits
  statusDefined := h.statusDefined
  flightOk f' hf' := by cases hf'; exact Flight.wf_congr rfl rfl rfl hf

theorem completeQuery (h : s.RegistersOk) (q : QueryAnswer) : (s.completeQuery q).Inv := by
  cases q <;> exact h.complete _ _

theorem blockReset (h : s.RegistersOk) : s.blockReset.Inv where
  cfgOk := h.cfgOk
  busyExact := rfl
  txbFits := Nat.zero_le _
  pendingFits := BitVec.zero_and
  failedFits := BitVec.zero_and
  statusDefined := Nat.zero_le _
  flightOk f hf := by cases hf

end State.RegistersOk

/-! ### Accepting a command -/

/-- A command run by an idle block completes, or stays in flight with a legal hidden state. -/
theorem exec_inv {i : Instr} {s t : State} (h : s.RegistersOk) (ran : exec i s = .next t) : t.Inv := by
  cases i with
  | nop => cases ran; exact h.complete _ _
  | crcInit => cases ran; exact (h.setCrc _).complete _ _
  | crcByte b => cases ran; exact (h.setCrc _).complete _ _
  | txbClear => cases ran; exact (h.setTxb (Nat.zero_le _)).complete _ _
  | txbPush b =>
    simp only [exec, execTxbPush] at ran
    split at ran
    · cases ran
      exact h.complete _ _
    · cases ran
      have room : s.txb.length < txbCapacity := Nat.lt_of_le_of_ne h.txbFits ‹_›
      exact (h.setTxb (by simpa using room)).complete _ _
  | send ptype ver flags =>
    simp only [exec, execSend] at ran
    split at ran
    · cases ran
      exact h.complete _ _
    · cases ran
      exact (h.setTxb (Nat.zero_le _)).inFlight ⟨‹_›, h.txbFits⟩
  | receive => cases ran; exact h.inFlight True.intro
  | trkAlloc => cases ran; exact h.allocId.complete _ _
  | trkMark m p f => cases ran; exact (h.markId m p f).complete _ _
  | trkQpend m => cases ran; exact h.completeQuery _
  | trkQfail m => cases ran; exact h.completeQuery _
  | regRead idx =>
    simp only [exec, execRegRead] at ran
    split at ran <;> cases ran <;> exact h.complete _ _

/-! ### A `SEND` in flight -/

/-- R182, R183, R190: the frame just built is that of the id just allocated, which is pending. -/
theorem firstFlight_wf {s : State} {ptype ver flags : Byte} {payload : List Byte} (normal : ptype ≠ 0)
    (fits : payload.length ≤ txbCapacity) (attempts : 1 ≤ s.cfg.maxAttempts) :
    (firstFlight flags (builtFrame ptype ver flags payload s)).wf s.allocId := by
  have pending := s.allocId_query.1
  unfold firstFlight
  split
  · exact ⟨⟨fits, ptype, ver, flags, normal, ‹_›, rfl⟩, rfl, Nat.le_refl 1, attempts, True.intro, pending⟩
  · exact ⟨⟨fits, ptype, ver, flags, normal, eq_false_of_ne_true ‹_›, rfl⟩, rfl, True.intro, pending⟩

theorem sendOnceStep_inv {s : State} {f : SendFrame} {p : WritePhase} (h : s.Inv)
    (hf : (Flight.sendOnce f p).wf s) : (sendOnceStep f p s).Inv := by
  have can := writeStep_can f p s
  unfold sendOnceStep
  generalize writeStep f p s = r at can ⊢
  cases can with
  | hold => exact h
  | more same nonempty =>
    obtain ⟨built, last, -, pending⟩ := hf
    have next : (Flight.sendOnce f .payload).wf s := ⟨built, last, nonempty, pending⟩
    exact (h.registers.sameBlock same).inFlight (same.flight_wf next)
  | written same => exact (h.registers.sameBlock same).complete _ _
  | chanErr same => exact (h.registers.sameBlock same).complete _ _

/-- R33, R35: from one phase of a `SEND` with `ACK_REQ` to another, its frame, id and attempt stay legal. -/
theorem sendAcked_wf_phase {s : State} {f : SendFrame} {n : Nat} {p : SendPhase}
    (h : (Flight.sendAcked f n p).wf s) (p' : SendPhase) (phase : p'.wf s f) : (Flight.sendAcked f n p').wf s := by
  obtain ⟨built, last, first, bound, -⟩ := h
  exact ⟨built, last, first, bound, phase⟩

theorem attemptWrite_inv {s : State} {f : SendFrame} {n : Nat} {p : WritePhase} (h : s.Inv)
    (hf : (Flight.sendAcked f n (.write p)).wf s) : (attemptWrite f n p s).Inv := by
  have can := writeStep_can f p s
  unfold attemptWrite
  generalize writeStep f p s = r at can ⊢
  cases can with
  | hold => exact h
  | more same nonempty =>
    have ⟨_, _, _, _, _, pending⟩ := hf
    exact (h.registers.sameBlock same).inFlight
      (same.flight_wf (sendAcked_wf_phase hf (.write .payload) ⟨nonempty, pending⟩))
  | written same =>
    exact (h.registers.sameBlock same).inFlight (same.flight_wf (sendAcked_wf_phase hf .waitQuery True.intro))
  | chanErr same => exact (h.registers.sameBlock same).complete _ _

/-- R186: the query finds the id pending before it receives, and resolved before it resolves. -/
theorem waitQuery_inv {s : State} {f : SendFrame} {n : Nat} (h : s.Inv)
    (hf : (Flight.sendAcked f n .waitQuery).wf s) : (waitQuery f n s).Inv := by
  unfold waitQuery
  split
  · exact h.registers.complete _ _
  · exact h.registers.inFlight (sendAcked_wf_phase hf (.waitReceive freshCycle) ⟨True.intro, ‹_›⟩)
  · exact h.registers.inFlight (sendAcked_wf_phase hf .resolve ‹_›)

/-- R185: the attempt after a failed one is at most `MAX_ATTEMPTS`; its id has to be pending still. -/
theorem failedAttempt_inv {s : State} {f : SendFrame} {n : Nat} (h : s.RegistersOk)
    (hf : (Flight.sendAcked f n .waitQuery).wf s) (pending : s.queryPending f.mid = .bit true) :
    (failedAttempt f n s).Inv := by
  unfold failedAttempt
  split
  · exact h.complete _ _
  · obtain ⟨built, last, -, bound, -⟩ := hf
    exact h.inFlight ⟨built, last, Nat.succ_pos n, Nat.lt_of_le_of_ne bound ‹_›, True.intro, pending⟩

/-- R186: however a receive cycle ends, the wait goes on legally; only after a channel error does it need the id
pending. -/
theorem afterCycle_inv {s : State} {f : SendFrame} {n : Nat} {r : CycleResult} (h : s.RegistersOk)
    (hf : (Flight.sendAcked f n .waitQuery).wf s) (pending : r = .chanErr → s.queryPending f.mid = .bit true) :
    (afterCycle f n r s).Inv := by
  cases r with
  | chanErr => exact failedAttempt_inv h hf (pending rfl)
  | noFrame => exact h.inFlight hf
  | ack => exact h.inFlight hf
  | delivered => exact h.inFlight hf
  | procErr => exact h.complete _ _

/-- R186, R339: the id stays pending through the receive cycle, unless the cycle ends with an ack frame. -/
theorem waitReceive_inv {s : State} {f : SendFrame} {n : Nat} {c : RxCycle} (h : s.Inv)
    (hf : (Flight.sendAcked f n (.waitReceive c)).wf s) : (waitReceive f n c s).Inv := by
  have ⟨built, last, first, bound, legal, pending⟩ := hf
  have can := cycleStep_can c s
  unfold waitReceive
  generalize cycleStep c s = r at can ⊢
  cases can with
  | hold => exact h
  | @more c' t same ok _ =>
    exact (h.registers.sameBlock same).inFlight
      (same.flight_wf (sendAcked_wf_phase hf (.waitReceive c') ⟨ok legal, pending⟩))
  | ack =>
    refine afterCycle_inv (h.registers.markId _ _ _) ⟨?_, ?_, first, ?_, True.intro⟩ (by simp)
    · simpa using built
    · simpa using last
    · simpa using bound
  | other same =>
    exact afterCycle_inv (h.registers.sameBlock same)
      (same.flight_wf (sendAcked_wf_phase hf .waitQuery True.intro)) fun _ => (same.query f.mid).1.trans pending

theorem resolveSend_inv {s : State} (h : s.RegistersOk) (f : SendFrame) : (resolveSend f s).Inv := by
  unfold resolveSend
  split <;> exact h.complete _ _

theorem sendAckedStep_inv {s : State} {f : SendFrame} {n : Nat} {p : SendPhase} (h : s.Inv)
    (hf : (Flight.sendAcked f n p).wf s) : (sendAckedStep f n p s).Inv := by
  cases p with
  | write w => exact attemptWrite_inv h hf
  | waitQuery => exact waitQuery_inv h hf
  | waitReceive c => exact waitReceive_inv h hf
  | resolve => exact resolveSend_inv h.registers f

/-! ### A `RECEIVE` in flight, and the step of whatever command is in flight -/

theorem completeReceive_inv {s : State} (h : s.RegistersOk) (r : CycleResult) : (completeReceive r s).Inv := by
  cases r <;> exact h.complete _ _

theorem receiveStep_inv {s : State} {c : RxCycle} (h : s.Inv) (legal : c.wf) : (receiveStep c s).Inv := by
  have can := cycleStep_can c s
  unfold receiveStep
  generalize cycleStep c s = r at can ⊢
  cases can with
  | hold => exact h
  | more same ok _ => exact (h.registers.sameBlock same).inFlight (ok legal)
  | ack => exact completeReceive_inv (h.registers.markId _ _ _) _
  | other same => exact completeReceive_inv (h.registers.sameBlock same) _

theorem flightStep_inv {s : State} {f : Flight} (h : s.Inv) (hf : f.wf s) : (flightStep f s).Inv := by
  cases f with
  | sendAlloc ptype ver flags payload =>
    obtain ⟨normal, fits⟩ := hf
    have attempts := ((Config.wf_iff s.cfg).mp h.cfgOk).1
    exact h.registers.allocId.inFlight (firstFlight_wf normal fits attempts)
  | sendOnce f p => exact sendOnceStep_inv h hf
  | sendAcked f n p => exact sendAckedStep_inv h hf
  | receive c => exact receiveStep_inv h hf

theorem advance_inv {s : State} (h : s.Inv) : (advance s).Inv := by
  unfold advance
  split
  · exact h
  · exact flightStep_inv h (h.flightOk _ ‹_›)

/-- Settles O6: the steps of the other agents leave the registers, a reset clears them, and the block goes by the
command it accepts or by the phase of the command in flight. -/
theorem stepKeepsInvariant : Obligations.StepKeepsInvariant := by
  intro s t h hstep
  have passed : s.passTurn.Inv := (passTurn_same s).inv h
  obtain ⟨-, is⟩ := step_is hstep
  cases is with
  | reset => exact passed.registers.blockReset
  | host _ notReset => exact (hostStep_same _ _ notReset).inv passed
  | chan => exact (chanStep_same _ _).inv passed
  | handler => exact (handlerStep_same _ _).inv passed
  | busy => exact advance_inv passed
  | idle => exact passed
  | command _ _ _ _ ran => exact exec_inv (passed.registers.setPort _) ran
  | reserved => exact (passed.registers.setPort _).complete _ _

end Sys2Proof.Machine
end

section
/-! The standalone CRC register (10_state.md R22, 40_crc.md R115): which commands write it, and that a command in
flight does the same whatever it holds. -/

namespace Sys2Proof.Machine

@[simp] theorem State.completeQuery_crc (s : State) (q : QueryAnswer) : (s.completeQuery q).crc = s.crc := by
  cases q <;> rfl

/-- R115: no command but `CRC_INIT` and `CRC_BYTE` writes `CRC`. -/
theorem exec_crc {i : Instr} {s t : State} (notInit : i.opcode ≠ .crcInit) (notByte : i.opcode ≠ .crcByte)
    (h : exec i s = .next t) : t.crc = s.crc := by
  cases i with
  | nop => cases h; rfl
  | crcInit => exact absurd rfl notInit
  | crcByte b => exact absurd rfl notByte
  | txbClear => cases h; rfl
  | txbPush b =>
    simp only [exec, execTxbPush] at h
    split at h <;> cases h <;> rfl
  | send ptype ver flags =>
    simp only [exec, execSend] at h
    split at h <;> cases h <;> rfl
  | receive => cases h; rfl
  | trkAlloc => cases h; rfl
  | trkMark m p f => cases h; simp
  | trkQpend m => cases h; simp
  | trkQfail m => cases h; simp
  | regRead idx =>
    simp only [exec, execRegRead] at h
    split at h <;> cases h <;> rfl

/-! ### The state with another `CRC` -/

/-- The state with this value in `CRC`. -/
def State.withCrc (s : State) (k : Half) : State := { s with crc := k }

section
variable (s : State) (k : Half)

@[simp] theorem State.withCrc_cfg : (s.withCrc k).cfg = s.cfg := rfl
@[simp] theorem State.withCrc_chan : (s.withCrc k).chan = s.chan := rfl
@[simp] theorem State.withCrc_handler : (s.withCrc k).handler = s.handler := rfl
@[simp] theorem State.withCrc_busy : (s.withCrc k).busy = s.busy := rfl
@[simp] theorem State.withCrc_flight : (s.withCrc k).flight = s.flight := rfl
@[simp] theorem State.queryPending_withCrc (m : Byte) : (s.withCrc k).queryPending m = s.queryPending m := rfl
@[simp] theorem State.queryFailed_withCrc (m : Byte) : (s.withCrc k).queryFailed m = s.queryFailed m := rfl
@[simp] theorem State.inFlight_withCrc (f : Flight) :
    (s.withCrc k).inFlight f = (s.inFlight f).withCrc k := rfl
@[simp] theorem State.completeSend_withCrc (f : SendFrame) (st : Status) :
    (s.withCrc k).completeSend f st = (s.completeSend f st).withCrc k := rfl
@[simp] theorem State.markId_withCrc (m : Byte) (p f : Bool) :
    (s.withCrc k).markId m p f = (s.markId m p f).withCrc k := by
  unfold State.markId
  rw [(State.window_congr (s := s) (t := s.withCrc k) rfl rfl m).1]
  split <;> rfl

/-! ### The answer to a request does not depend on `CRC` -/

theorem chanRead_withCrc :
    chanRead (s.withCrc k) = (chanRead s).map (Prod.map id (State.withCrc · k)) := by
  unfold chanRead
  rw [State.withCrc_chan]
  cases s.chan.rx <;> rfl

theorem chanWrite_withCrc (bytes : List Byte) :
    chanWrite bytes (s.withCrc k) = (chanWrite bytes s).map (Prod.map id (State.withCrc · k)) := by
  unfold chanWrite
  rw [State.withCrc_chan]
  cases s.chan.wr <;> rfl

theorem handlerAsk_withCrc (r : Request) :
    handlerAsk r (s.withCrc k) = (handlerAsk r s).map (Prod.map id (State.withCrc · k)) := by
  unfold handlerAsk
  rw [State.withCrc_handler]
  cases s.handler.answers <;> rfl

end

/-! ### A step of a receive cycle, of a frame write, and of the command in flight -/

/-- Another `CRC` in the state a step of a receive cycle leaves. -/
def CycleStep.withCrc (k : Half) : CycleStep → CycleStep
  | .hold => .hold
  | .more c s => .more c (s.withCrc k)
  | .done r s => .done r (s.withCrc k)

/-- Another `CRC` in the state a channel write leaves. -/
def WriteStep.withCrc (k : Half) : WriteStep → WriteStep
  | .hold => .hold
  | .more p s => .more p (s.withCrc k)
  | .written s => .written (s.withCrc k)
  | .chanErr s => .chanErr (s.withCrc k)

section
variable (s : State) (k : Half)

theorem afterHandler_withCrc (h : Header) (failed : Bool) :
    afterHandler h failed (s.withCrc k) = (afterHandler h failed s).withCrc k := by
  unfold afterHandler
  split <;> rfl

theorem cycleSync_withCrc (y : Sync) : cycleSync y (s.withCrc k) = (cycleSync y s).withCrc k := by
  unfold cycleSync
  split
  · unfold cycleChecked
    split
    · rfl
    · unfold dispatchFrame
      split
      · simp [CycleStep.withCrc]
      · rfl
    · rfl
  · unfold cycleRead
    rw [chanRead_withCrc]
    rcases chanRead s with _ | ⟨_ | _, t⟩ <;> rfl

theorem cycleStep_withCrc (c : RxCycle) : cycleStep c (s.withCrc k) = (cycleStep c s).withCrc k := by
  cases c with
  | sync y => exact cycleSync_withCrc s k y
  | create h p =>
    simp only [cycleStep, cycleCreate, handlerAsk_withCrc]
    rcases handlerAsk _ s with _ | ⟨_ | _, t⟩
    · rfl
    · rfl
    · exact afterHandler_withCrc t k h true
  | process h p =>
    simp only [cycleStep, cycleProcess, handlerAsk_withCrc]
    rcases handlerAsk _ s with _ | ⟨_ | _, t⟩
    · rfl
    · exact afterHandler_withCrc t k h false
    · exact afterHandler_withCrc t k h true
  | ackWrite h failed =>
    simp only [cycleStep, cycleAckWrite, chanWrite_withCrc, State.withCrc_cfg]
    rcases chanWrite _ s with _ | ⟨_ | _, t⟩ <;> rfl

theorem writeStep_withCrc (f : SendFrame) (p : WritePhase) :
    writeStep f p (s.withCrc k) = (writeStep f p s).withCrc k := by
  unfold writeStep
  rw [chanWrite_withCrc]
  rcases chanWrite _ s with _ | ⟨_ | _, t⟩
  · rfl
  · cases p with
    | head =>
      show afterWrite f .head (t.withCrc k) = (afterWrite f .head t).withCrc k
      unfold afterWrite
      dsimp only
      split <;> rfl
    | payload => rfl
  · rfl

theorem afterCycle_withCrc (f : SendFrame) (n : Nat) (r : CycleResult) :
    afterCycle f n r (s.withCrc k) = (afterCycle f n r s).withCrc k := by
  cases r with
  | chanErr =>
    by_cases last : n = s.cfg.maxAttempts
    · simp [afterCycle, failedAttempt, last]
    · simp [afterCycle, failedAttempt, last]
  | noFrame => rfl
  | ack => rfl
  | delivered => rfl
  | procErr => rfl

theorem sendAckedStep_withCrc (f : SendFrame) (n : Nat) (p : SendPhase) :
    sendAckedStep f n p (s.withCrc k) = (sendAckedStep f n p s).withCrc k := by
  cases p with
  | write w =>
    simp only [sendAckedStep, attemptWrite, writeStep_withCrc]
    cases writeStep f w s <;> rfl
  | waitQuery =>
    simp only [sendAckedStep, waitQuery, State.queryPending_withCrc]
    split <;> rfl
  | waitReceive c =>
    simp only [sendAckedStep, waitReceive, cycleStep_withCrc]
    cases cycleStep c s with
    | hold => rfl
    | more c' t => rfl
    | done r t => exact afterCycle_withCrc t k f n r
  | resolve =>
    simp only [sendAckedStep, resolveSend, State.queryFailed_withCrc]
    split <;> rfl

theorem flightStep_withCrc (f : Flight) : flightStep f (s.withCrc k) = (flightStep f s).withCrc k := by
  cases f with
  | sendAlloc => rfl
  | sendOnce f p =>
    simp only [flightStep, sendOnceStep, writeStep_withCrc]
    cases writeStep f p s <;> rfl
  | sendAcked f n p => exact sendAckedStep_withCrc s k f n p
  | receive c =>
    simp only [flightStep, receiveStep, cycleStep_withCrc]
    cases cycleStep c s with
    | hold => rfl
    | more c' t => rfl
    | done r t => cases r <;> rfl

/-- R115: a command in flight does the same with every value of `CRC`, and leaves that value. -/
theorem advance_withCrc : advance (s.withCrc k) = (advance s).withCrc k := by
  unfold advance
  rw [State.withCrc_flight]
  cases s.flight with
  | none => rfl
  | some f => exact flightStep_withCrc s k f

/-- R11: `HOST` does the same with every value of `CRC`, but for reset. -/
theorem hostStep_withCrc {m : HostMove} (notReset : m ≠ .reset) :
    hostStep m (s.withCrc k) = (hostStep m s).withCrc k := by
  cases m with
  | offer w => rfl
  | readCompletion =>
    simp only [hostStep, readCompletion_eq]
    rfl
  | reset => exact absurd rfl notReset

/-- But for reset, a turn of a busy machine does the same with every value of `CRC`. -/
theorem turnStep_withCrc {s t : State} {a : Turn} (isBusy : s.busy = true) (notReset : a ≠ .host .reset)
    (h : turnStep a s = .next t) : turnStep a (s.withCrc k) = .next (t.withCrc k) := by
  cases a with
  | block =>
    simp only [turnStep, blockStep, State.withCrc_busy, isBusy, if_true] at h ⊢
    cases h
    rw [advance_withCrc]
  | host m =>
    cases h
    exact congrArg Host.Outcome.next (hostStep_withCrc s k (by simpa using notReset))
  | chan m => cases h; cases m <;> rfl
  | handler a => cases h; rfl

end

/-- R22, R115: with a command in flight every step but a reset does the same with every value of `CRC`. -/
theorem step_busy_withCrc {s t : State} (k : Half) (isBusy : s.busy = true) (notReset : s.nextTurn ≠ .host .reset)
    (h : step s = .next t) : step (s.withCrc k) = .next (t.withCrc k) := by
  have configured := (step_is h).1
  rw [step_turn configured] at h
  exact (step_turn (s := s.withCrc k) configured).trans (turnStep_withCrc (s := s.passTurn) k isBusy notReset h)

/-- R22: so with a command in flight no step but a reset writes `CRC`: it leaves the value that is there. -/
theorem step_busy_crc {s t : State} (isBusy : s.busy = true) (notReset : s.nextTurn ≠ .host .reset)
    (h : step s = .next t) : t.crc = s.crc := by
  have same : step s = .next (t.withCrc s.crc) := step_busy_withCrc s.crc isBusy notReset h
  have leaves : t = t.withCrc s.crc := Host.Outcome.next.inj (h.symm.trans same)
  exact (congrArg State.crc leaves :)

/-- Settles O52: the first clause by the command; the second because a step with a command in flight does the same
with every value of `CRC`. -/
theorem standaloneCrcUntouched : Obligations.StandaloneCrcUntouched :=
  ⟨fun _ _ _ => exec_crc, fun _ _ k isBusy notReset h =>
    ⟨step_busy_crc isBusy notReset h, step_busy_withCrc k isBusy notReset h⟩⟩

end Sys2Proof.Machine
end

section
/-! That the parameters are fixed, and which command a step of an idle block runs (10_state.md R21, R26,
30_encoding.md R72, R73). -/

namespace Sys2Proof.Machine

/-- Settles O55: no step changes a parameter (`step_cfg`), and each index from 5 to 8 reads its own. -/
theorem parametersAreFixed : Obligations.ParametersAreFixed :=
  ⟨fun _ _ => step_cfg, State.blockReset_cfg, fun _ => ⟨rfl, rfl, rfl, rfl⟩⟩

/-- R26: on its turn an idle block runs the word at the head of the port, which is then accepted. -/
theorem step_of_offer {s : State} {w : Word} {rest : List Word} (configured : s.cfg.wf = true)
    (turn : s.nextTurn = .block) (isIdle : s.busy = false) (offer : s.host.port = w :: rest) :
    step s = runWord w { s with host := { s.host with port := rest }, turns := s.turns.tail } := by
  have offered : s.passTurn.offered =
      some (w, { s with host := { s.host with port := rest }, turns := s.turns.tail }) := by
    simp [State.offered, State.passTurn, offer]
  simp [step_of_nextTurn configured turn, turnStep, blockStep, isIdle, offered]

theorem runWord_instr {w : Word} {i : Instr} (s : State) (h : decode w = .instr i) : runWord w s = exec i s := by
  simp [runWord, h]

/-- R73: a word with a reserved opcode completes at once with `BAD_COMMAND`. -/
theorem runWord_reserved {w : Word} (s : State) (h : Opcode.ofByte? (opField w) = none) :
    runWord w s = .next (s.complete .badCommand 0) := by
  simp [runWord, decode, h, execReserved]

/-- Settles O2: the step is `runWord` on the word accepted, which goes by what the word decodes to. -/
theorem stepRunsDecodedCommand : Obligations.StepRunsDecodedCommand := by
  intro s w rest configured turn isIdle offer accepted
  have runs : step s = runWord w accepted := step_of_offer configured turn isIdle offer
  exact ⟨fun i decoded => runs.trans (runWord_instr accepted decoded),
    fun reserved => runs.trans (runWord_reserved accepted reserved)⟩

end Sys2Proof.Machine
end

section
/-! The requests of the block (20_memory.md R54 to R56, R61, 44_receive.md R218): a step of the block asks an agent
at most once and takes the first answer it has ready; a step of another agent asks nothing. -/

namespace Sys2Proof.Machine

/-- What the block and its agents have exchanged: the requests made, and what `CHAN` and `HANDLER` hold. -/
structure Traffic where
  requests : List Request
  chan : Chan
  handler : Handler

/-- The traffic a state stands at. -/
def State.traffic (s : State) : Traffic := ⟨s.requests, s.chan, s.handler⟩

/-- The requests R218 lets the block make to `HANDLER`. -/
def Request.ToHandler (r : Request) : Prop :=
  (∃ pv ptype ver flags, r = .create pv ptype ver flags) ∨ ∃ p, r = .process p

/-- From `x` to `y` at most one request is made, and the first answer ready for it is taken; nothing else changes. -/
inductive AsksOnce (x y : Traffic) : Prop
  | nothing (same : y = x)
  /-- R55: a read takes the head of the receive stream. -/
  | read {a : RxAnswer} (ready : x.chan.rx = a :: y.chan.rx) (asked : y.requests = x.requests ++ [.read])
      (wr : y.chan.wr = x.chan.wr) (tx : y.chan.tx = x.chan.tx) (handler : y.handler = x.handler)
  /-- R56: a write adds to the transmit stream what `CHAN` accepts of it. -/
  | write {a : WrAnswer} {bytes : List Byte} (ready : x.chan.wr = a :: y.chan.wr)
      (asked : y.requests = x.requests ++ [.write bytes]) (tx : y.chan.tx = x.chan.tx ++ accepted a bytes)
      (rx : y.chan.rx = x.chan.rx) (handler : y.handler = x.handler)
  /-- R218: `HANDLER` is asked. -/
  | ask {a : HdAnswer} {r : Request} (kind : r.ToHandler) (ready : x.handler.answers = a :: y.handler.answers)
      (asked : y.requests = x.requests ++ [r]) (chan : y.chan = x.chan)

/-! ### The operations that ask nothing -/

@[simp] theorem State.complete_traffic (s : State) (st : Status) (r : Long) :
    (s.complete st r).traffic = s.traffic := rfl

@[simp] theorem State.markId_traffic (s : State) (m : Byte) (p f : Bool) :
    (s.markId m p f).traffic = s.traffic := by
  simp [State.traffic]

@[simp] theorem State.completeQuery_traffic (s : State) (q : QueryAnswer) :
    (s.completeQuery q).traffic = s.traffic := by
  cases q <;> rfl

/-- R33: no command makes a request when it is accepted. -/
theorem exec_traffic {i : Instr} {s t : State} (h : exec i s = .next t) : t.traffic = s.traffic := by
  cases i with
  | nop => cases h; rfl
  | crcInit => cases h; rfl
  | crcByte b => cases h; rfl
  | txbClear => cases h; rfl
  | txbPush b =>
    simp only [exec, execTxbPush] at h
    split at h <;> cases h <;> rfl
  | send ptype ver flags =>
    simp only [exec, execSend] at h
    split at h <;> cases h <;> rfl
  | receive => cases h; rfl
  | trkAlloc => cases h; rfl
  | trkMark m p f => cases h; simp
  | trkQpend m => cases h; simp
  | trkQfail m => cases h; simp
  | regRead idx =>
    simp only [exec, execRegRead] at h
    split at h <;> cases h <;> rfl

theorem runWord_traffic {w : Word} {s t : State} (h : runWord w s = .next t) : t.traffic = s.traffic := by
  unfold runWord at h
  split at h
  · exact exec_traffic h
  · cases h; rfl

theorem State.offered_traffic {s t : State} {w : Word} (h : s.offered = some (w, t)) : t.traffic = s.traffic := by
  unfold State.offered at h
  split at h <;> cases h
  rfl

/-! ### The three requests -/

theorem chanRead_asks {s t : State} {a : RxAnswer} (h : chanRead s = some (a, t)) : AsksOnce s.traffic t.traffic := by
  obtain ⟨rest, ready, rfl⟩ := chanRead_some h
  exact .read ready rfl rfl rfl rfl

theorem chanWrite_asks {s t : State} {a : WrAnswer} {bytes : List Byte} (h : chanWrite bytes s = some (a, t)) :
    AsksOnce s.traffic t.traffic := by
  obtain ⟨rest, ready, rfl⟩ := chanWrite_some h
  exact .write ready rfl rfl rfl rfl

theorem handlerAsk_asks {s t : State} {a : HdAnswer} {r : Request} (kind : r.ToHandler)
    (h : handlerAsk r s = some (a, t)) : AsksOnce s.traffic t.traffic := by
  obtain ⟨rest, ready, rfl⟩ := handlerAsk_some h
  exact .ask kind ready rfl rfl

/-! ### A step of a receive cycle -/

/-- The state a step of a receive cycle taken in `s` leaves. -/
def CycleStep.after (s : State) : CycleStep → State
  | .hold => s
  | .more _ t => t
  | .done _ t => t

@[simp] theorem afterHandler_after (s t : State) (h : Header) (failed : Bool) :
    (afterHandler h failed t).after s = t := by
  unfold afterHandler
  split <;> rfl

/-- R211, R212: a check of the synchronizer asks nothing, also where it applies an ack frame. -/
theorem cycleChecked_traffic (c : SyncStep) (s : State) : ((cycleChecked c s).after s).traffic = s.traffic := by
  unfold cycleChecked
  split
  · rfl
  · unfold dispatchFrame
    split
    · exact State.markId_traffic s _ _ _
    · rfl
  · rfl

theorem cycleSync_asks (y : Sync) (s : State) : AsksOnce s.traffic ((cycleSync y s).after s).traffic := by
  unfold cycleSync
  split
  · exact .nothing (cycleChecked_traffic _ s)
  · unfold cycleRead
    split
    · exact .nothing rfl
    · exact chanRead_asks ‹_›
    · exact chanRead_asks ‹_›

/-- R61: a step of a receive cycle asks at most one agent, once. -/
theorem cycleStep_asks (c : RxCycle) (s : State) : AsksOnce s.traffic ((cycleStep c s).after s).traffic := by
  cases c with
  | sync y => exact cycleSync_asks y s
  | create h p =>
    have kind : (Request.create h.pv h.ptype h.ver h.flags).ToHandler := .inl ⟨_, _, _, _, rfl⟩
    simp only [cycleStep, cycleCreate]
    split
    · exact .nothing rfl
    · exact handlerAsk_asks kind ‹_›
    · simpa using handlerAsk_asks kind ‹_›
  | process h p =>
    have kind : (Request.process p).ToHandler := .inr ⟨p, rfl⟩
    simp only [cycleStep, cycleProcess]
    split
    · exact .nothing rfl
    · simpa using handlerAsk_asks kind ‹_›
    · simpa using handlerAsk_asks kind ‹_›
  | ackWrite h failed =>
    simp only [cycleStep, cycleAckWrite]
    split
    · exact .nothing rfl
    · exact chanWrite_asks ‹_›
    · exact chanWrite_asks ‹_›

/-! ### A channel write of a frame write -/

/-- The state a channel write taken in `s` leaves. -/
def WriteStep.after (s : State) : WriteStep → State
  | .hold => s
  | .more _ t => t
  | .written t => t
  | .chanErr t => t

@[simp] theorem afterWrite_after (s t : State) (f : SendFrame) (p : WritePhase) : (afterWrite f p t).after s = t := by
  unfold afterWrite
  split
  · split <;> rfl
  · rfl

theorem writeStep_asks (f : SendFrame) (p : WritePhase) (s : State) :
    AsksOnce s.traffic ((writeStep f p s).after s).traffic := by
  unfold writeStep
  split
  · exact .nothing rfl
  · exact chanWrite_asks ‹_›
  · simpa using chanWrite_asks ‹_›

/-! ### The step of whatever command is in flight: what follows its request asks nothing more -/

theorem sendOnceStep_traffic (f : SendFrame) (p : WritePhase) (s : State) :
    (sendOnceStep f p s).traffic = ((writeStep f p s).after s).traffic := by
  unfold sendOnceStep
  cases writeStep f p s <;> rfl

theorem attemptWrite_traffic (f : SendFrame) (n : Nat) (p : WritePhase) (s : State) :
    (attemptWrite f n p s).traffic = ((writeStep f p s).after s).traffic := by
  unfold attemptWrite
  cases writeStep f p s <;> rfl

theorem waitQuery_traffic (f : SendFrame) (n : Nat) (s : State) : (waitQuery f n s).traffic = s.traffic := by
  unfold waitQuery
  split <;> rfl

theorem resolveSend_traffic (f : SendFrame) (s : State) : (resolveSend f s).traffic = s.traffic := by
  unfold resolveSend
  split <;> rfl

theorem failedAttempt_traffic (f : SendFrame) (n : Nat) (s : State) : (failedAttempt f n s).traffic = s.traffic := by
  unfold failedAttempt
  split <;> rfl

theorem afterCycle_traffic (f : SendFrame) (n : Nat) (r : CycleResult) (s : State) :
    (afterCycle f n r s).traffic = s.traffic := by
  cases r with
  | chanErr => exact failedAttempt_traffic f n s
  | noFrame => rfl
  | ack => rfl
  | delivered => rfl
  | procErr => rfl

theorem waitReceive_traffic (f : SendFrame) (n : Nat) (c : RxCycle) (s : State) :
    (waitReceive f n c s).traffic = ((cycleStep c s).after s).traffic := by
  unfold waitReceive
  cases cycleStep c s with
  | hold => rfl
  | more c' t => rfl
  | done r t => exact afterCycle_traffic f n r t

theorem completeReceive_traffic (r : CycleResult) (s : State) : (completeReceive r s).traffic = s.traffic := by
  cases r <;> rfl

theorem receiveStep_traffic (c : RxCycle) (s : State) :
    (receiveStep c s).traffic = ((cycleStep c s).after s).traffic := by
  unfold receiveStep
  cases cycleStep c s with
  | hold => rfl
  | more c' t => rfl
  | done r t => exact completeReceive_traffic r t

theorem sendAckedStep_asks (f : SendFrame) (n : Nat) (p : SendPhase) (s : State) :
    AsksOnce s.traffic (sendAckedStep f n p s).traffic := by
  cases p with
  | write w =>
    simp only [sendAckedStep, attemptWrite_traffic]
    exact writeStep_asks f w s
  | waitQuery => exact .nothing (waitQuery_traffic f n s)
  | waitReceive c =>
    simp only [sendAckedStep, waitReceive_traffic]
    exact cycleStep_asks c s
  | resolve => exact .nothing (resolveSend_traffic f s)

theorem flightStep_asks (f : Flight) (s : State) : AsksOnce s.traffic (flightStep f s).traffic := by
  cases f with
  | sendAlloc => exact .nothing rfl
  | sendOnce f p =>
    simp only [flightStep, sendOnceStep_traffic]
    exact writeStep_asks f p s
  | sendAcked f n p => exact sendAckedStep_asks f n p s
  | receive c =>
    simp only [flightStep, receiveStep_traffic]
    exact cycleStep_asks c s

/-! ### Every step -/

/-- R61: a step of the block asks at most once: accepting a command asks nothing. -/
theorem blockStep_asks {s t : State} (h : blockStep s = .next t) : AsksOnce s.traffic t.traffic := by
  unfold blockStep at h
  split at h
  · cases h
    unfold advance
    split
    · exact .nothing rfl
    · exact flightStep_asks _ s
  · split at h
    · cases h
      exact .nothing rfl
    · rename_i offered
      exact .nothing ((runWord_traffic h).trans (State.offered_traffic offered))

/-- R11, R36: another agent makes no request, and leaves the transmit stream. -/
theorem turnStep_asks_nothing {a : Turn} {s t : State} (notBlock : a ≠ .block) (h : turnStep a s = .next t) :
    t.requests = s.requests ∧ t.chan.tx = s.chan.tx := by
  cases a with
  | block => exact absurd rfl notBlock
  | host m =>
    cases h
    cases m with
    | offer w => exact ⟨rfl, rfl⟩
    | readCompletion => simp [hostStep, readCompletion_eq]
    | reset => exact ⟨rfl, rfl⟩
  | chan m =>
    cases h
    cases m <;> exact ⟨rfl, rfl⟩
  | handler a => cases h; exact ⟨rfl, rfl⟩

/-- Settles O56: by the turn taken; on the block's, by the phase of the command in flight (`flightStep_asks`). -/
theorem oneRequestAtATime : Obligations.OneRequestAtATime := by
  intro s t h
  have taken : turnStep s.nextTurn s.passTurn = .next t := (step_turn (step_is h).1).symm.trans h
  refine ⟨fun notBlock => (turnStep_asks_nothing notBlock taken :), fun turn => ?_⟩
  rw [turn] at taken
  cases blockStep_asks taken with
  | nothing same => exact .inl (Traffic.mk.inj same)
  | read ready asked wr tx handler => exact .inr (.inl ⟨_, ready, asked, wr, tx, handler⟩)
  | @write a bytes ready asked tx rx handler =>
    exact .inr (.inr (.inl ⟨a, bytes, ready, asked, by cases a <;> exact tx, rx, handler⟩))
  | ask kind ready asked chan => exact .inr (.inr (.inr ⟨_, _, ready, asked, chan, kind⟩))

end Sys2Proof.Machine
end

section
/-! The command word (30_encoding.md R70 to R74): its four fields, the opcode a byte selects, and that the word the
encoder writes is the word read, cut to the bits its command uses. -/

namespace Sys2Proof

/-! ### The four fields of a word (R70) -/

@[simp] theorem opField_packWord (op a b c : Byte) : opField (packWord op a b c) = op := by
  show (op ++ a ++ b ++ c : BitVec (8 + 8 + 8 + 8)).extractLsb' 24 8 = op
  rw [BitVec.extractLsb'_append_eq_of_le (by decide), BitVec.extractLsb'_append_eq_of_le (by decide)]
  exact BitVec.extractLsb'_append_eq_left

@[simp] theorem aField_packWord (op a b c : Byte) : aField (packWord op a b c) = a := by
  show (op ++ a ++ b ++ c : BitVec (8 + 8 + 8 + 8)).extractLsb' 16 8 = a
  rw [BitVec.extractLsb'_append_eq_of_le (by decide), BitVec.extractLsb'_append_eq_of_le (by decide)]
  exact BitVec.extractLsb'_append_eq_right

@[simp] theorem bField_packWord (op a b c : Byte) : bField (packWord op a b c) = b := by
  show (op ++ a ++ b ++ c : BitVec (8 + 8 + 8 + 8)).extractLsb' 8 8 = b
  rw [BitVec.extractLsb'_append_eq_of_le (by decide)]
  exact BitVec.extractLsb'_append_eq_right

@[simp] theorem cField_packWord (op a b c : Byte) : cField (packWord op a b c) = c := by
  show (op ++ a ++ b ++ c : BitVec (8 + 8 + 8 + 8)).extractLsb' 0 8 = c
  exact BitVec.extractLsb'_append_eq_right

/-- A word is its four fields. -/
theorem packWord_fields (w : Word) : packWord (opField w) (aField w) (bField w) (cField w) = w := by
  unfold packWord opField aField bField cField
  rw [BitVec.extractLsb'_append_extractLsb'_eq_extractLsb' (by rfl),
    BitVec.extractLsb'_append_extractLsb'_eq_extractLsb' (by rfl),
    BitVec.extractLsb'_append_extractLsb'_eq_extractLsb' (by rfl)]
  exact BitVec.extractLsb'_eq_self

theorem packWord_and (op a b c op' a' b' c' : Byte) :
    packWord op a b c &&& packWord op' a' b' c' = packWord (op &&& op') (a &&& a') (b &&& b') (c &&& c') := by
  show (op ++ a ++ b ++ c : BitVec (8 + 8 + 8 + 8)) &&& (op' ++ a' ++ b' ++ c') = _
  simp only [BitVec.and_append]
  rfl

/-! ### The opcode a byte selects (R72, R73) -/

theorem Opcode.ofByte?_byte (o : Opcode) : Opcode.ofByte? o.byte = some o := by
  cases o <;> rfl

theorem Opcode.ofByte?_eq_some_iff {op : Byte} {o : Opcode} : Opcode.ofByte? op = some o ↔ op = o.byte := by
  constructor
  · intro h
    exact (eq_of_beq (List.find?_some h :)).symm
  · rintro rfl
    exact o.ofByte?_byte

/-! ### What a word decodes to -/

theorem decode_of_opField {w : Word} {o : Opcode} (h : opField w = o.byte) :
    decode w = .instr (o.command (aField w) (bField w) (cField w)) := by
  simp [decode, h, Opcode.ofByte?_byte]

theorem decode_of_reserved {w : Word} (h : Opcode.ofByte? (opField w) = none) : decode w = .reserved (opField w) := by
  simp [decode, h]

/-- R72: a word that decodes to a command has an opcode of the table, and the command is that opcode's. -/
theorem decode_eq_instr {w : Word} {i : Instr} (h : decode w = .instr i) :
    ∃ o : Opcode, opField w = o.byte ∧ i = o.command (aField w) (bField w) (cField w) := by
  unfold decode at h
  split at h
  · rename_i o selected
    cases h
    exact ⟨o, Opcode.ofByte?_eq_some_iff.mp selected, rfl⟩
  · cases h

theorem bitOperand_operandByte (b : Bool) : bitOperand (operandByte b) = b := by
  cases b <;> rfl

/-- R71, R74: a one-bit operand keeps bit 0 of its byte, and the encoder writes the bits above as zero. -/
theorem operandByte_bitOperand (b : Byte) : operandByte (bitOperand b) = b &&& 0x01 := by
  rw [show b &&& 0x01 = _ from BitVec.and_one_eq_setWidth_ofBool_getLsbD]
  unfold bitOperand
  cases b.getLsbD 0 <;> rfl

/-- A command is its opcode's command on its own operand bytes. -/
theorem Instr.command_operandBytes (i : Instr) :
    i.opcode.command i.operandBytes.1 i.operandBytes.2.1 i.operandBytes.2.2 = i := by
  cases i with
  | trkMark m pend fail => simp [Instr.opcode, Opcode.command, Instr.operandBytes, bitOperand_operandByte]
  | _ => rfl

theorem Opcode.opcode_command (o : Opcode) (a b c : Byte) : (o.command a b c).opcode = o := by
  cases o <;> rfl

/-- The opcode the encoder writes selects the command, and its operand bytes give it back. -/
theorem decode_encode (i : Instr) : decode (encode i) = .instr i := by
  have selected : opField (encode i) = i.opcode.byte := opField_packWord _ _ _ _
  rw [decode_of_opField selected]
  simp [encode, Instr.command_operandBytes]

/-- Settles O7: `decode_encode`. -/
theorem decodeInvertsEncode : Obligations.DecodeInvertsEncode := decode_encode

/-- Settles O10: each word is the encoded word of its command. -/
theorem encodedWordsDecode : Obligations.EncodedWordsDecode :=
  ⟨decode_encode .nop, decode_encode (.crcByte 0x31), decode_encode (.send 0x05 0x01 0x01),
    decode_encode .receive, decode_encode (.trkMark 0x00 false true), decode_encode (.regRead 0x08)⟩

/-! ### Unused operand bits (R74) -/

theorem Opcode.usedBits_fields (o : Opcode) :
    o.usedBits = packWord 0xFF (aField o.usedBits) (bField o.usedBits) (cField o.usedBits) := by
  cases o <;> decide

/-- The operand bytes of a command that was decoded are those of the word, cut to the bits it uses. -/
theorem Opcode.operandBytes_command (o : Opcode) (a b c : Byte) :
    (o.command a b c).operandBytes =
      (a &&& aField o.usedBits, b &&& bField o.usedBits, c &&& cField o.usedBits) := by
  have all (x : Byte) : x &&& 255#8 = x := BitVec.and_allOnes
  cases o <;>
    simp [Opcode.command, Instr.operandBytes, Opcode.usedBits, aField, bField, cField, operandByte_bitOperand, all]

/-- R74: encoding the command a word decodes to gives the word back without its unused bits. -/
theorem encode_of_decode {w : Word} {i : Instr} (h : decode w = .instr i) : encode i = w &&& i.opcode.usedBits := by
  obtain ⟨o, hop, rfl⟩ := decode_eq_instr h
  have all : o.byte &&& 0xFF = o.byte := BitVec.and_allOnes
  calc encode (o.command (aField w) (bField w) (cField w))
    _ = packWord (o.byte &&& 0xFF) (aField w &&& aField o.usedBits) (bField w &&& bField o.usedBits)
          (cField w &&& cField o.usedBits) := by
        rw [encode, o.opcode_command, o.operandBytes_command, all]
    _ = w &&& o.usedBits := by
        rw [← packWord_and, ← o.usedBits_fields, ← hop, packWord_fields]
    _ = w &&& (o.command (aField w) (bField w) (cField w)).opcode.usedBits := by rw [o.opcode_command]

/-- R74: the unused bits are ignored, since a word decodes as the encoded word of its command does. -/
theorem decode_usedBits {w : Word} {o : Opcode} (h : opField w = o.byte) : decode w = decode (w &&& o.usedBits) := by
  have decoded := decode_of_opField h
  have encoded := encode_of_decode decoded
  rw [o.opcode_command] at encoded
  rw [← encoded, decode_encode, decoded]

/-- Settles O8: a word without its unused bits is the encoded word of the command it decodes to. -/
theorem unusedOperandBitsIgnored : Obligations.UnusedOperandBitsIgnored := by
  refine ⟨fun _ _ => decode_usedBits, fun _ _ => encode_of_decode, fun s w o h => ?_⟩
  unfold Machine.runWord
  rw [← decode_usedBits h]

/-! ### The reserved opcodes (R73) -/

/-- The `OP` values the table leaves out. -/
theorem Opcode.ofByte?_ofNat_eq_none_iff {n : Nat} (h : n < 256) :
    Opcode.ofByte? (BitVec.ofNat 8 n) = none ↔
      (0x03 ≤ n ∧ n ≤ 0x0F) ∨ (0x12 ≤ n ∧ n ≤ 0x1F) ∨ (0x22 ≤ n ∧ n ≤ 0x2F) ∨ (0x34 ≤ n ∧ n ≤ 0x3F) ∨
      (0x41 ≤ n ∧ n ≤ 0xFF) := by
  have byte_eq (o : Opcode) : o.byte = BitVec.ofNat 8 n ↔ o.byte.toNat = n := by
    rw [BitVec.toNat_eq, BitVec.toNat_ofNat, Nat.mod_eq_of_lt h]
  simp only [Opcode.ofByte?, List.find?_eq_none, Opcode.all, List.forall_mem_cons, beq_iff_eq, byte_eq,
    List.not_mem_nil, false_imp_iff, implies_true]
  simp only [Opcode.byte, BitVec.reduceToNat, and_true]
  omega

/-- R73: the 244 values of the ranges. -/
theorem Opcode.count_reserved :
    ((List.range 256).filter (fun n => (Opcode.ofByte? (BitVec.ofNat 8 n)).isNone)).length = 244 := by
  decide +kernel

/-- Settles O9: by the ranges the table leaves out, and `BAD_COMMAND` for a word with one of them. -/
theorem reservedOpcodesRejected : Obligations.ReservedOpcodesRejected :=
  ⟨Opcode.count_reserved, fun _ => Opcode.ofByte?_ofNat_eq_none_iff,
    fun _ s reserved => ⟨decode_of_reserved reserved, Machine.runWord_reserved s reserved⟩⟩

end Sys2Proof
end

section
/-! The assembler (30_encoding.md R82): a command and its mnemonic with its operands give each other. -/

namespace Sys2Proof.Machine

theorem opcodeOf_mnemonicOf (o : Opcode) : opcodeOf (mnemonicOf o) = some o := by
  cases o <;> decide

theorem byteOperand_eq_some_iff {n : Nat} {b : Byte} : byteOperand n = some b ↔ b.toNat = n := by
  simp only [byteOperand, Option.ite_none_right_eq_some, Option.some.injEq]
  bv_omega

theorem flagOperand_eq_some_iff {n : Nat} {b : Bool} : flagOperand n = some b ↔ b.toNat = n := by
  unfold flagOperand
  split <;> cases b <;> simp_all [eq_comm]

/-- The operands of a command fit it. -/
theorem commandOf_operandsOf (i : Instr) : commandOf i.opcode (operandsOf i) = some i := by
  have byte (b : Byte) : byteOperand b.toNat = some b := byteOperand_eq_some_iff.mpr rfl
  have flag (b : Bool) : flagOperand b.toNat = some b := flagOperand_eq_some_iff.mpr rfl
  cases i <;> simp [commandOf, Instr.opcode, operandsOf, byte, flag]

/-- A command that is assembled has the opcode of its mnemonic and the operands written. -/
theorem commandOf_eq_some {o : Opcode} {ns : List Nat} {i : Instr} (h : commandOf o ns = some i) :
    i.opcode = o ∧ operandsOf i = ns := by
  unfold commandOf at h
  split at h
  -- no operand
  case h_1 | h_2 | h_4 | h_7 | h_8 =>
    cases h
    exact ⟨rfl, rfl⟩
  -- one byte
  case h_3 | h_5 | h_10 | h_11 | h_12 =>
    obtain ⟨b, fits, rfl⟩ := Option.map_eq_some_iff.mp h
    exact ⟨rfl, congrArg (· :: []) (byteOperand_eq_some_iff.mp fits)⟩
  -- `SEND` and `TRK_MARK`, of three operands
  case h_6 | h_9 =>
    split at h
    · cases h
      simp_all [Instr.opcode, operandsOf, byteOperand_eq_some_iff, flagOperand_eq_some_iff]
    · cases h
  -- another number of operands
  case h_13 => cases h

/-- Settles O11: `opcodeOf_mnemonicOf`, `commandOf_operandsOf` and `commandOf_eq_some`. -/
theorem assemblerReadsEveryCommand : Obligations.AssemblerReadsEveryCommand :=
  ⟨fun i => ⟨opcodeOf_mnemonicOf i.opcode, commandOf_operandsOf i⟩, fun _ _ _ => commandOf_eq_some⟩

end Sys2Proof.Machine
end

section
/-! The acknowledgement frame (30_encoding.md R80). -/

namespace Sys2Proof.Machine

/-- R132 to R134: a 16-bit value is its two bytes joined. -/
theorem join16_lo8_hi8 (v : Half) : join16 (lo8 v) (hi8 v) = v := by
  apply BitVec.eq_of_getLsbD_eq
  intro i hi
  by_cases low : i < 8
  · simp [join16, lo8, hi8, low, hi]
  · have high : i - 8 < 8 := by omega
    have place : 8 + (i - 8) = i := by omega
    simp [join16, lo8, hi8, low, hi, high, place]

/-- The flags of an acknowledgement: bit 1 alone, where creation or processing failed. -/
theorem ackFlags (failed : Bool) : flagSet 0x00 1 (bit failed) = if failed then 0x02 else 0x00 := by
  cases failed <;> rfl

/-- Settles O28: the parts of `ackFrame` written out; the two bytes of the checksum join to it. -/
theorem ackFrameLayout : Obligations.AckFrameLayout := by
  refine ⟨fun cfg m failed => ?_, by decide +kernel, by decide +kernel⟩
  rw [← ackFlags]
  exact ⟨_, _, rfl, join16_lo8_hi8 _⟩

end Sys2Proof.Machine
end

section
/-! Runs of a ready block through the commands on its port, and the pseudo-instructions (30_encoding.md R83). -/

namespace Sys2Proof.Machine

/-! ### A run, command after command -/

theorem runsTo_succ {n : Nat} {s t u : State} (first : step s = .next t) (rest : RunsTo n t u) :
    RunsTo (n + 1) s u := by
  unfold RunsTo at *
  simp only [Host.Core.run, core, first]
  exact rest

theorem runsTo_trans {m n : Nat} {s t u : State} (first : RunsTo m s t) (rest : RunsTo n t u) : RunsTo (m + n) s u := by
  induction m generalizing s with
  | zero =>
    cases first
    rwa [Nat.zero_add]
  | succ m ih =>
    rw [Nat.add_right_comm]
    simp only [RunsTo, Host.Core.run] at first
    split at first
    · exact runsTo_succ ‹_› (ih first)
    · cases first
    · cases first

/-- The state with these words on the port. -/
def State.withPort (s : State) (port : List Word) : State := { s with host := { s.host with port := port } }

theorem State.withPort_self {s : State} {port : List Word} (h : s.host.port = port) : s.withPort port = s := by
  subst h
  rfl

/-- A ready block accepts the command at the head of the port and runs it. -/
theorem State.Ready.step_command {s : State} (ready : s.Ready) (i : Instr) (port : List Word) :
    step (s.withPort (encode i :: port)) = exec i (s.withPort port) := by
  obtain ⟨configured, noTurns, isIdle, -⟩ := ready
  have turn : (s.withPort (encode i :: port)).nextTurn = .block := by
    simp [State.nextTurn, State.withPort, noTurns]
  have accepted : { s.withPort port with turns := s.turns.tail } = s.withPort port := by
    rw [noTurns]
    simp [State.withPort, noTurns]
  rw [step_of_offer (s := s.withPort (encode i :: port)) configured turn isIdle rfl,
    runWord_instr _ (decode_encode i)]
  exact congrArg (exec i) accepted

/-- A command that completes leaves a ready block ready. -/
theorem State.Ready.complete {s t : State} (ready : s.Ready) (cfg : t.cfg = s.cfg) (turns : t.turns = s.turns)
    (st : Status) (r : Long) : (t.complete st r).Ready := by
  obtain ⟨configured, noTurns, -, -⟩ := ready
  exact ⟨by simpa [cfg] using configured, by simpa [turns] using noTurns, rfl, rfl⟩

/-- A busy block steps its command. -/
theorem State.Runs.step_flight {s : State} {f : Flight} (runs : s.Runs f) :
    step s = .next (flightStep f s.passTurn) := by
  obtain ⟨configured, turn, isBusy, flying⟩ := runs
  simp [step_of_nextTurn configured turn, turnStep, blockStep, isBusy, advance, flying]

/-! ### `CRC_BUF` -/

/-- A ready block whose last command left this value in `CRC` and in `RESULT`, with these words on the port. -/
def State.crcFed (s : State) (c : Half) (port : List Word) : State :=
  ({ s with crc := c }.withPort port).complete .ok (zext64Half c)

theorem State.Ready.crcFed_eq {s : State} (ready : s.Ready) (c : Half) (port : List Word) :
    s.crcFed c port =
      { s with crc := c, host := { s.host with port := port }, status := 0, result := c.zeroExtend 64 } := by
  obtain ⟨-, -, isIdle, noFlight⟩ := ready
  simp [State.crcFed, State.complete, State.withPort, isIdle, noFlight, Status.code, zext64Half]

/-- The `CRC_BYTE` commands of a list of bytes feed them to the register, in order. -/
theorem State.Ready.runsTo_crcBytes {s : State} (ready : s.Ready) (bytes : List Byte) (c : Half) (rest : List Word) :
    RunsTo bytes.length (s.crcFed c ((bytes.map .crcByte).map encode ++ rest)) (s.crcFed (crcFrom c bytes) rest) := by
  induction bytes generalizing c with
  | nil => rfl
  | cons b bytes ih =>
    have fed : (s.crcFed c []).Ready := ready.complete rfl rfl .ok (zext64Half c)
    exact runsTo_succ (fed.step_command (.crcByte b) _) (ih (crcStep c b))

/-- Settles O58: `CRC_INIT` clears the register and each `CRC_BYTE` takes its byte in (`runsTo_crcBytes`). -/
theorem pseudoInstructionsExpand : Obligations.PseudoInstructionsExpand := by
  refine ⟨fun _ => rfl, fun _ _ _ _ => rfl, fun _ => ⟨rfl, rfl⟩, fun bytes s rest ready offer => ?_⟩
  have words : assembleLines [.crcBuf bytes] ++ rest =
      encode .crcInit :: ((bytes.map .crcByte).map encode ++ rest) := by
    simp [assembleLines, AsmLine.expand]
  have init := ready.step_command .crcInit ((bytes.map .crcByte).map encode ++ rest)
  rw [State.withPort_self (offer.trans words)] at init
  rw [← ready.crcFed_eq]
  exact runsTo_succ init (ready.runsTo_crcBytes bytes 0 rest)

/-! ### `SENDP` -/

/-- A ready block whose last command left these bytes in `TXB` and their number in `RESULT`, with these words on
the port. -/
def State.txbFilled (s : State) (bytes : List Byte) (port : List Word) : State :=
  ((s.setTxb bytes).withPort port).complete .ok (long bytes.length)

theorem State.Ready.txbFilled {s : State} (ready : s.Ready) (bytes : List Byte) (port : List Word) :
    (s.txbFilled bytes port).Ready :=
  ready.complete rfl rfl .ok (long bytes.length)

/-- R181: a byte pushed while there is room joins the payload. -/
theorem State.Ready.step_push {s : State} (ready : s.Ready) {bytes : List Byte} (room : bytes.length < txbCapacity)
    (b : Byte) (port : List Word) :
    step (s.txbFilled bytes (encode (.txbPush b) :: port)) = .next (s.txbFilled (bytes ++ [b]) port) := by
  refine ((ready.txbFilled bytes []).step_command (.txbPush b) port).trans ?_
  exact if_neg (Nat.ne_of_lt room)

/-- The `TXB_PUSH` commands of a list of bytes put them behind those in `TXB`, in order. -/
theorem State.Ready.runsTo_pushes {s : State} (ready : s.Ready) (bytes before : List Byte) (rest : List Word)
    (fits : before.length + bytes.length ≤ txbCapacity) :
    RunsTo bytes.length (s.txbFilled before ((bytes.map .txbPush).map encode ++ rest))
      (s.txbFilled (before ++ bytes) rest) := by
  induction bytes generalizing before with
  | nil =>
    rw [List.append_nil]
    rfl
  | cons b bytes ih =>
    rw [List.length_cons] at fits
    have pushed := ih (before ++ [b]) (by simp; omega)
    rw [List.append_assoc] at pushed
    exact runsTo_succ (ready.step_push (by omega) b _) pushed

/-- R183: `SEND` of a normal type is accepted with the content of `TXB`; then its id is allocated. -/
theorem State.Ready.runsTo_send {s : State} (ready : s.Ready) {ptype : Byte} (normal : ptype ≠ 0x00)
    (ver flags : Byte) (rest : List Word) :
    RunsTo 2 (s.withPort (encode (.send ptype ver flags) :: rest))
      (sendAllocStep ptype ver flags s.txb
        (((s.withPort rest).setTxb []).inFlight (.sendAlloc ptype ver flags s.txb)).passTurn) := by
  have accepts : step (s.withPort (encode (.send ptype ver flags) :: rest)) =
      .next (((s.withPort rest).setTxb []).inFlight (.sendAlloc ptype ver flags s.txb)) :=
    (ready.step_command _ _).trans (if_neg normal)
  obtain ⟨configured, noTurns, -, -⟩ := ready
  have runs : (((s.withPort rest).setTxb []).inFlight (.sendAlloc ptype ver flags s.txb)).Runs
      (.sendAlloc ptype ver flags s.txb) :=
    ⟨configured, by simp [State.nextTurn, State.withPort, noTurns], rfl, rfl⟩
  exact runsTo_two accepts runs.step_flight

/-- Settles O59: `TXB` is cleared, filled by the pushes (`runsTo_pushes`), and taken by the `SEND` (`runsTo_send`). -/
theorem sendPCarriesItsBytes : Obligations.SendPCarriesItsBytes := by
  intro t v f bytes s rest ready normal fits offer
  have words : assembleLines [.sendP t v f bytes] ++ rest =
      encode .txbClear :: ((bytes.map .txbPush).map encode ++ encode (.send t v f) :: rest) := by
    simp [assembleLines, AsmLine.expand]
  have clear := ready.step_command .txbClear ((bytes.map .txbPush).map encode ++ encode (.send t v f) :: rest)
  rw [State.withPort_self (offer.trans words)] at clear
  have pushes := ready.runsTo_pushes bytes [] (encode (.send t v f) :: rest) (by simpa [txbCapacity] using fits)
  have send := (ready.txbFilled bytes []).runsTo_send normal v f rest
  exact ⟨_, runsTo_succ clear (runsTo_trans pushes send), rfl, rfl, rfl, rfl, rfl⟩

end Sys2Proof.Machine
end

section
/-! The checksum (40_crc.md R110 to R112): its iteration bit by bit, and that the byte step loses nothing, so that one
bad byte always shows (20_memory.md R64); and the commands of the standalone unit (R113, R114). -/

namespace Sys2Proof.Machine

/-! ### The iteration and the byte step (R111) -/

theorem crcPoly_bit : ∀ i < 16, crcPoly.getLsbD i = (i == 15 || i == 13 || i == 0) := by decide

/-- R111: every bit moves down one place, and the bit shifted out is XORed in where the polynomial has a 1. -/
theorem crcShift_bit (c : Half) {i : Nat} (h : i < 16) :
    (crcShift c).getLsbD i = xor (c.getLsbD (i + 1)) (c.getLsbD 0 && (i == 15 || i == 13 || i == 0)) := by
  rw [← crcPoly_bit i h, Nat.add_comm i 1]
  unfold crcShift
  cases c.getLsbD 0 <;> simp

/-- The bit shifted out comes back as bit 15. -/
theorem crcShift_bit_last (c : Half) : (crcShift c).getLsbD 15 = c.getLsbD 0 := by
  rw [crcShift_bit c (by decide), BitVec.getLsbD_of_ge c 16 (by decide)]
  simp

/-- Bit 15 tells which bit was shifted out, and that one tells every bit above it. -/
theorem crcShift_injective : Function.Injective crcShift := by
  intro c d same
  have low : c.getLsbD 0 = d.getLsbD 0 := by rw [← crcShift_bit_last, same, crcShift_bit_last]
  refine BitVec.eq_of_getLsbD_eq fun i h => ?_
  cases i with
  | zero => exact low
  | succ i =>
    have moved := congrArg (·.getLsbD i) same
    simp only [crcShift_bit _ (Nat.lt_of_succ_lt h), low] at moved
    exact Bool.xor_left_inj.mp moved

theorem crcShifts_injective (n : Nat) : Function.Injective (crcShifts n) := by
  induction n with
  | zero => exact Function.injective_id
  | succ n ih => exact ih.comp crcShift_injective

theorem zeroExtend_half_injective : Function.Injective (BitVec.zeroExtend 16 : Byte → Half) := by
  intro b b' same
  simpa using congrArg (BitVec.setWidth 8) same

theorem crcStep_injective_register (b : Byte) : Function.Injective (crcStep · b) := fun _ _ same =>
  (BitVec.xor_left_inj _).mp (crcShifts_injective 8 same)

theorem crcStep_injective_byte (c : Half) : Function.Injective (crcStep c) := fun _ _ same =>
  zeroExtend_half_injective ((BitVec.xor_right_inj _).mp (crcShifts_injective 8 same))

/-! ### The checksum of a list (R112) -/

theorem crcFrom_injective_register (bytes : List Byte) : Function.Injective (crcFrom · bytes) := by
  induction bytes with
  | nil => exact Function.injective_id
  | cons b bytes ih => exact ih.comp (crcStep_injective_register b)

theorem crc16_append_cons (l m : List Byte) (b : Byte) : crc16 (l ++ b :: m) = crcFrom (crcStep (crc16 l) b) m :=
  crcFrom_append _ _ _

theorem crc16_replicate_zero (n : Nat) : crc16 (List.replicate n 0x00) = 0x0000 := by
  induction n with
  | zero => rfl
  | succ n ih => rw [List.replicate_succ', crc16_snoc, ih]; rfl

/-- Settles O16: the iteration by `crcShift_bit`, the fold by `crc16_snoc`, and the spec's values by evaluation. -/
theorem checksumAlgorithm : Obligations.ChecksumAlgorithm :=
  ⟨fun c _ => crcShift_bit c, fun _ _ => rfl, by decide, by decide, by decide, crc16_nil, crc16_snoc,
    crc16_replicate_zero, by decide, by decide +kernel⟩

/-- Settles O17: the two bytes leave different registers, and the bytes behind them keep these apart. -/
theorem checksumDetectsOneBadByte : Obligations.ChecksumDetectsOneBadByte := by
  intro l m b b' differ same
  rw [crc16_append_cons, crc16_append_cons] at same
  exact differ (crcStep_injective_byte _ (crcFrom_injective_register m same))

/-! ### The standalone unit (R113, R114) -/

/-- Settles O15: the sequence is what `CRC_BUF` stands for (`pseudoInstructionsExpand`). -/
theorem crcByteFeedsTheRegister : Obligations.CrcByteFeedsTheRegister := by
  refine ⟨fun w h => decode_of_opField (o := .crcByte) h, fun _ _ => rfl, fun bytes s ready offer => ?_⟩
  obtain ⟨expands, -, -, run⟩ := pseudoInstructionsExpand
  exact ⟨_, run bytes s [] ready (by simpa [assembleLines, expands] using offer), rfl, rfl⟩

/-- Settles O14: the opcode selects `CRC_INIT`, whose meaning is R113's. -/
theorem crcInitClears : Obligations.CrcInitClears :=
  ⟨fun w h => decode_of_opField (o := .crcInit) h, by decide, fun _ => rfl⟩

end Sys2Proof.Machine
end

section
/-! The bit and byte helpers (41_bitbyte.md R130 to R135). -/

namespace Sys2Proof.Machine

/-! ### The bits of a flags byte (R130, R131, R135) -/

theorem flagGet_eq_ofBool (f : Byte) (n : Nat) : flagGet f n = BitVec.ofBool (f.getLsbD n) :=
  BitVec.eq_of_getLsbD_eq fun i h => by
    obtain rfl : i = 0 := by omega
    simp [flagGet]

theorem flagTest_eq_getLsbD (f : Byte) (n : Nat) : flagTest f n = f.getLsbD n := by
  rw [flagTest, flagGet_eq_ofBool]
  cases f.getLsbD n <;> rfl

/-- The mask of R131 has bit `n` alone. -/
theorem flagMask_bit (n : Nat) {i : Nat} (h : i < 8) : ((1 : Byte) <<< n).getLsbD i = decide (n = i) := by
  have power : (1 : Byte) <<< n = BitVec.twoPow 8 n := rfl
  rw [power, BitVec.getLsbD_twoPow]
  obtain rfl | other := eq_or_ne n i
  · simp [h]
  · simp [other]

/-- R131: below bit `n` and above it the mask and the one-bit value are both 0. -/
theorem flagSet_bit (f : Byte) (n : Nat) (v : BitVec 1) {i : Nat} (h : i < 8) :
    (flagSet f n v).getLsbD i = if i = n then v.getLsbD 0 else f.getLsbD i := by
  rw [flagSet, BitVec.getLsbD_or, BitVec.getLsbD_and, BitVec.getLsbD_not, flagMask_bit n h]
  obtain below | rfl | above := Nat.lt_trichotomy i n
  · simp [h, below, below.ne, below.ne']
  · simp [h]
  · have outside : v.getLsbD (i - n) = false := BitVec.getLsbD_of_ge v _ (by omega)
    simp [h, above.ne, above.ne', outside]

/-! ### The two bytes of a 16-bit value (R132 to R134) -/

theorem lo8_bit (v : Half) {i : Nat} (h : i < 8) : (lo8 v).getLsbD i = v.getLsbD i := by
  simp [lo8, h]

theorem hi8_bit (v : Half) {i : Nat} (h : i < 8) : (hi8 v).getLsbD i = v.getLsbD (i + 8) := by
  simp [hi8, h, Nat.add_comm]

/-- R134: the shifted high byte and the low byte do not overlap. -/
theorem join16_eq_append (lo hi : Byte) : join16 lo hi = hi ++ lo := by
  rw [BitVec.append_def, BitVec.shiftLeftZeroExtend_eq, BitVec.setWidth'_eq]
  rfl

theorem lo8_join16 (lo hi : Byte) : lo8 (join16 lo hi) = lo := by
  rw [join16_eq_append]
  exact BitVec.extractLsb'_append_eq_right

theorem hi8_join16 (lo hi : Byte) : hi8 (join16 lo hi) = hi := by
  rw [join16_eq_append]
  exact BitVec.extractLsb'_append_eq_left

theorem join16_toNat (lo hi : Byte) : (join16 lo hi).toNat = 256 * hi.toNat + lo.toNat := by
  rw [join16_eq_append, BitVec.toNat_append, ← Nat.shiftLeft_add_eq_or_of_lt lo.isLt,
    Nat.shiftLeft_eq, Nat.mul_comm]

/-- Settles O18: the flag helpers bit by bit (`flagSet_bit`), and the byte helpers over the concatenation that
`join16` is (`join16_eq_append`). -/
theorem bitAndByteHelpers : Obligations.BitAndByteHelpers :=
  ⟨fun f n _ => ⟨flagGet_eq_ofBool f n, flagTest_eq_getLsbD f n⟩, fun f n v _ _ h => flagSet_bit f n v h, by decide,
    fun v _ h => ⟨lo8_bit v h, hi8_bit v h⟩, join16_lo8_hi8, fun l h => ⟨lo8_join16 l h, hi8_join16 l h⟩,
    join16_toNat⟩

end Sys2Proof.Machine
end

section
/-! The bytes the synchronizer reads (42_frame_codec.md R152 to R155, R161): from one phase to the next, with no check
due before any of them. -/

namespace Sys2Proof.Machine

/-! ### Bytes that hold no marker (R161) -/

theorem markerFree_tail {cfg : Config} {prev : Option Byte} {b : Byte} {bytes : List Byte}
    (free : markerFree cfg (prev.toList ++ b :: bytes) = true) : markerFree cfg (b :: bytes) = true := by
  cases prev with
  | none => exact free
  | some a =>
    obtain ⟨-, tail⟩ := Bool.and_eq_true_iff.mp free
    exact tail

theorem not_marker_of_markerFree {cfg : Config} {prev : Option Byte} {b : Byte} {bytes : List Byte}
    (free : markerFree cfg (prev.toList ++ b :: bytes) = true) : ¬(prev = some cfg.sync0 ∧ b = cfg.sync1) := by
  rintro ⟨rfl, rfl⟩
  simp [markerFree] at free

/-! ### From phase to phase -/

/-- The synchronizer reads these bytes one after another, no check being due before any of them, and comes from the
first state to the second. -/
inductive Reads (cfg : Config) : Sync → List Byte → Sync → Prop
  | nil {y : Sync} : Reads cfg y [] y
  | cons {y z : Sync} {b : Byte} {bytes : List Byte} (noCheck : syncCheck y = none)
      (goesOn : Reads cfg (syncByte cfg y b) bytes z) : Reads cfg y (b :: bytes) z

namespace Reads

variable {cfg : Config}

theorem append {x y z : Sync} {l m : List Byte} (first : Reads cfg x l y) (rest : Reads cfg y m z) :
    Reads cfg x (l ++ m) z := by
  induction first with
  | nil => exact rest
  | cons noCheck _ ih => exact .cons noCheck (ih rest)

/-- R161: behind garbage that holds no marker and does not end in half of one, the scan recognises the marker. -/
theorem marker {prev : Option Byte} {garbage : List Byte} (free : markerFree cfg (prev.toList ++ garbage) = true)
    (notHalf : cfg.sync0 ≠ cfg.sync1 ∨ (prev.toList ++ garbage).getLast? ≠ some cfg.sync0) :
    Reads cfg (.scan prev) (garbage ++ [cfg.sync0, cfg.sync1]) (.header [] 0x0000) := by
  induction garbage generalizing prev with
  | nil =>
    have first : ¬(prev = some cfg.sync0 ∧ cfg.sync0 = cfg.sync1) := by
      rintro ⟨rfl, same⟩
      simp [same] at notHalf
    refine .cons rfl (.cons ?_ ?_) <;> simp only [syncByte, scanByte, if_neg first]
    · rfl
    · simpa using .nil
  | cons b garbage ih =>
    refine .cons rfl ?_
    simp only [syncByte, scanByte, if_neg (not_marker_of_markerFree free)]
    exact ih (markerFree_tail free) (by simpa using notHalf)

/-- R154: the header bytes up to the ninth. -/
theorem header {h bytes : List Byte} (crc : Half) (room : h.length < 9) (nine : h.length + bytes.length = 9) :
    Reads cfg (.header h crc) bytes (.hcs (h ++ bytes) [] (crcFrom crc bytes)) := by
  induction bytes generalizing h crc with
  | nil => exact absurd nine (Nat.ne_of_lt room)
  | cons b bytes ih =>
    refine .cons rfl ?_
    have length_snoc : (h ++ [b]).length = h.length + 1 := by simp
    rw [List.length_cons] at nine
    simp only [syncByte, headerByte, crcFrom, List.append_cons h b bytes]
    split
    next more => exact ih _ more (by omega)
    next last =>
      obtain rfl : bytes = [] := List.eq_nil_of_length_eq_zero (by omega)
      rw [List.append_nil]
      exact .nil

/-- R155: the two bytes of the header checksum. -/
theorem hcs (h : List Byte) (lo hi : Byte) (crc : Half) : Reads cfg (.hcs h [] crc) [lo, hi] (.hcs h [lo, hi] crc) :=
  .cons rfl (.cons rfl .nil)

/-- R157: payload bytes, up to the declared length. -/
theorem payload {h : Header} {p bytes : List Byte} (crc : Half)
    (declared : p.length + bytes.length = (headerLen h).toNat) :
    Reads cfg (.payload h p crc) bytes (.payload h (p ++ bytes) (crcFrom crc bytes)) := by
  induction bytes generalizing p crc with
  | nil =>
    rw [List.append_nil]
    exact .nil
  | cons b bytes ih =>
    rw [List.length_cons] at declared
    rw [List.append_cons p b bytes]
    exact .cons (if_pos (by omega)) (ih _ (by simp; omega))

theorem wholeHeader {h : List Byte} (nine : h.length = 9) :
    Reads cfg (.header [] 0x0000) h (.hcs h [] (crc16 h)) :=
  header 0x0000 (by decide) (by simpa using nine)

theorem wholePayload {h : Header} {p : List Byte} (declared : p.length = (headerLen h).toNat) :
    Reads cfg (.payload h [] 0x0000) p (.payload h p (crc16 p)) :=
  payload 0x0000 (by simpa using declared)

/-- R152: marker, header and header checksum, behind garbage as R161 admits it. -/
theorem head {garbage h : List Byte} (free : markerFree cfg garbage = true)
    (notHalf : cfg.sync0 ≠ cfg.sync1 ∨ garbage.getLast? ≠ some cfg.sync0) (nine : h.length = 9) (lo hi : Byte) :
    Reads cfg freshScan (garbage ++ [cfg.sync0, cfg.sync1] ++ h ++ [lo, hi]) (.hcs h [lo, hi] (crc16 h)) :=
  ((marker (prev := none) free notHalf).append (wholeHeader nine)).append (hcs h lo hi (crc16 h))

end Reads

/-! ### The checks (R156, R157) -/

/-- With the header's own checksum the payload is next, where there is one. -/
theorem headerCheck_match {h : List Byte} {lo hi : Byte} {crc : Half} (same : join16 lo hi = crc) :
    headerCheck h lo hi crc =
      if headerLen (headerOf h) = 0 then .done (.frame (headerOf h) none)
      else .more (.payload (headerOf h) [] 0x0000) :=
  if_pos same

theorem headerCheck_mismatch {h : List Byte} {lo hi : Byte} {crc : Half} (differ : join16 lo hi ≠ crc) :
    headerCheck h lo hi crc = .more freshScan :=
  if_neg differ

theorem payloadCheck_match {h : Header} {p : List Byte} {crc : Half} (same : crc = headerPcs h) :
    payloadCheck h p crc = .done (.frame h (some p)) :=
  if_pos same

theorem payloadCheck_mismatch {h : Header} {p : List Byte} {crc : Half} (differ : crc ≠ headerPcs h) :
    payloadCheck h p crc = .done (.payloadBad h) :=
  if_neg differ

/-- The payload check is due once the declared bytes are read. -/
theorem syncCheck_payload {h : Header} {p : List Byte} (declared : p.length = (headerLen h).toNat) (crc : Half) :
    syncCheck (.payload h p crc) = some (payloadCheck h p crc) :=
  if_neg (Nat.not_lt_of_le declared.ge)

/-- A payload is to be read where one is declared. -/
theorem syncCheck_payload_nil {h : Header} (declares : headerLen h ≠ 0) (crc : Half) :
    syncCheck (.payload h [] crc) = none :=
  if_pos (headerLen_pos declares)

end Sys2Proof.Machine
end

section
/-! The synchronizer over a sequence of read answers (42_frame_codec.md R152, R160, R161): it gives what the procedure
of R152 gives, and finds the frames the framer builds. -/

namespace Sys2Proof.Machine

/-! ### One answer, or one check -/

section
variable {cfg : Config} {y : Sync}

theorem syncSettle_of_noCheck (noCheck : syncCheck y = none) : syncSettle y = .more y := by
  simp [syncSettle, noCheck]

theorem syncRun_nil (noCheck : syncCheck y = none) : syncRun cfg y [] = .hold := by
  simp [syncRun, syncSettle_of_noCheck noCheck]

theorem syncRun_err (noCheck : syncCheck y = none) (rx : List RxAnswer) : syncRun cfg y (.err :: rx) = .chanErr rx := by
  simp [syncRun, syncSettle_of_noCheck noCheck]

theorem syncRun_byte (noCheck : syncCheck y = none) (b : Byte) (rx : List RxAnswer) :
    syncRun cfg y (.byte b :: rx) = syncRun cfg (syncByte cfg y b) rx := by
  simp [syncRun, syncSettle_of_noCheck noCheck]

/-- A check that ends decoding leaves the answers unread. -/
theorem syncRun_done {r : FrameResult} (check : syncCheck y = some (.done r)) (rx : List RxAnswer) :
    syncRun cfg y rx = .got r rx := by
  cases rx <;> simp [syncRun, syncSettle, check]

/-- A check that goes on takes no answer. -/
theorem syncRun_more {z : Sync} (check : syncCheck y = some (.more z)) (noCheck : syncCheck z = none)
    (rx : List RxAnswer) : syncRun cfg y rx = syncRun cfg z rx := by
  have settled : syncSettle y = syncSettle z := by simp [syncSettle, check, noCheck]
  cases rx <;> simp [syncRun, settled]

theorem syncRun_reads {z : Sync} {bytes : List Byte} (reads : Reads cfg y bytes z) (rx : List RxAnswer) :
    syncRun cfg y (asBytes bytes ++ rx) = syncRun cfg z rx := by
  induction reads with
  | nil => rfl
  | cons noCheck _ ih => exact (syncRun_byte noCheck _ _).trans ih

end

/-! ### Frames are found (R160, R161) -/

/-- R157: behind a header that has passed its check, a payload that matches is delivered. -/
theorem syncRun_validPayload (cfg : Config) {h : Header} {p : List Byte}
    (declared : p.length = (headerLen h).toNat) (sum : crc16 p = headerPcs h) (rx : List RxAnswer) :
    syncRun cfg (.payload h [] 0x0000) (asBytes p ++ rx) = .got (.frame h (some p)) rx := by
  rw [syncRun_reads (.wholePayload declared)]
  exact syncRun_done ((syncCheck_payload declared _).trans (congrArg some (payloadCheck_match sum))) rx

/-- A valid frame is found behind garbage that holds no marker and does not end in half of one. -/
theorem syncRun_wireFrame {cfg : Config} {garbage h p : List Byte} (free : markerFree cfg garbage = true)
    (notHalf : cfg.sync0 ≠ cfg.sync1 ∨ garbage.getLast? ≠ some cfg.sync0) (valid : validFrame h p)
    (rx : List RxAnswer) :
    syncRun cfg freshScan (asBytes (garbage ++ wireFrame cfg h p) ++ rx) =
      .got (.frame (headerOf h) (if p = [] then none else some p)) rx := by
  obtain ⟨nine, declared, sum⟩ := valid
  have parts : asBytes (garbage ++ wireFrame cfg h p) ++ rx =
      asBytes (garbage ++ [cfg.sync0, cfg.sync1] ++ h ++ [lo8 (crc16 h), hi8 (crc16 h)]) ++ (asBytes p ++ rx) := by
    simp [asBytes, wireFrame]
  rw [parts, syncRun_reads (.head free notHalf nine _ _)]
  have check : syncCheck (.hcs h [lo8 (crc16 h), hi8 (crc16 h)] (crc16 h)) = some _ :=
    congrArg some (headerCheck_match (join16_lo8_hi8 _))
  by_cases empty : p = []
  · subst empty
    have zero : headerLen (headerOf h) = 0 := BitVec.eq_of_toNat_eq declared.symm
    rw [if_pos zero] at check
    exact syncRun_done check rx
  · have declares : headerLen (headerOf h) ≠ 0 := fun zero =>
      empty (List.eq_nil_of_length_eq_zero (by simpa [zero] using declared))
    rw [if_neg declares] at check
    rw [if_neg empty, syncRun_more check (syncCheck_payload_nil declares _)]
    exact syncRun_validPayload cfg declared (sum empty) rx

/-- R150: the frame the framer builds is a frame of R75 with the header it builds. -/
theorem frameBytes_eq_wireFrame (cfg : Config) (pv mid ptype ver flags : Byte) (p : List Byte) :
    frameBytes cfg pv mid ptype ver flags p = wireFrame cfg (encodeHeader pv mid ptype ver flags p) p := rfl

theorem headerLen_encodeHeader (pv mid ptype ver flags : Byte) {p : List Byte} (fits : p.length ≤ 65535) :
    (headerLen (headerOf (encodeHeader pv mid ptype ver flags p))).toNat = p.length := by
  have len : headerLen (headerOf (encodeHeader pv mid ptype ver flags p)) = BitVec.ofNat 16 p.length :=
    join16_lo8_hi8 _
  rw [len, BitVec.toNat_ofNat, Nat.mod_eq_of_lt (by omega)]

/-- The framer builds valid frames. -/
theorem encodeHeader_valid (pv mid ptype ver flags : Byte) {p : List Byte} (fits : p.length ≤ 65535) :
    validFrame (encodeHeader pv mid ptype ver flags p) p :=
  ⟨rfl, (headerLen_encodeHeader pv mid ptype ver flags fits).symm, fun _ => (join16_lo8_hi8 _).symm⟩

/-- Settles O31: what the framer builds is a valid frame, which the synchronizer finds (`syncRun_wireFrame`). -/
theorem frameFoundBehindGarbage : Obligations.FrameFoundBehindGarbage := by
  intro cfg garbage pv mid ptype ver flags p rx fits free notHalf
  rw [frameBytes_eq_wireFrame]
  exact syncRun_wireFrame free notHalf (encodeHeader_valid pv mid ptype ver flags fits) rx

/-- Settles O30: the frame is found behind no garbage at all. -/
theorem frameRoundTrip : Obligations.FrameRoundTrip := fun cfg pv mid ptype ver flags p rx fits =>
  frameFoundBehindGarbage cfg [] pv mid ptype ver flags p rx fits rfl (.inr (by simp))

/-- Settles O27: a length within 16 bits is its two bytes, and so are the two checksums. -/
theorem frameLayout : Obligations.FrameLayout := by
  refine ⟨fun cfg pv mid ptype ver flags p fits => ⟨_, _, _, _, _, _, rfl, ?_, join16_lo8_hi8 _, join16_lo8_hi8 _⟩,
    by decide +kernel, by decide +kernel⟩
  rw [← join16_toNat]
  exact headerLen_encodeHeader pv mid ptype ver flags fits

/-! ### The procedure of R152 -/

/-- A procedure that reads on where another has ended. -/
def Reading.bind {α β : Type} (first : Reading α) (next : α → List RxAnswer → Reading β) : Reading β :=
  match first with
  | .got a rest => next a rest
  | .chanErr rest => .chanErr rest
  | .hold => .hold

theorem Reading.bind_congr {α β : Type} {first : Reading α} {f g : α → List RxAnswer → Reading β}
    (same : ∀ a rest, first = .got a rest → f a rest = g a rest) : first.bind f = first.bind g := by
  cases first with
  | got a rest => exact same a rest rfl
  | chanErr rest => rfl
  | hold => rfl

theorem readBytes_zero (rx : List RxAnswer) : readBytes 0 rx = .got [] rx := by simp [readBytes]

theorem readBytes_succ_byte (n : Nat) (b : Byte) (rx : List RxAnswer) :
    readBytes (n + 1) (.byte b :: rx) = (readBytes n rx).bind fun bytes rest => .got (b :: bytes) rest := by
  rw [readBytes]
  cases readBytes n rx <;> rfl

/-- What is read and what is left are the answers there were. -/
theorem readBytes_got {n : Nat} {rx rest : List RxAnswer} {bytes : List Byte}
    (h : readBytes n rx = .got bytes rest) : bytes.length = n ∧ rx = asBytes bytes ++ rest := by
  induction n generalizing rx bytes with
  | zero =>
    cases (readBytes_zero rx).symm.trans h
    exact ⟨rfl, rfl⟩
  | succ n ih =>
    match rx with
    | [] => cases h
    | .err :: rx => cases h
    | .byte b :: rx =>
      rw [readBytes_succ_byte] at h
      cases hr : readBytes n rx with
      | got bs rest' =>
        rw [hr] at h
        cases h
        obtain ⟨length, rfl⟩ := ih hr
        exact ⟨congrArg (· + 1) length, rfl⟩
      | chanErr rest' => rw [hr] at h; cases h
      | hold => rw [hr] at h; cases h

/-- The scan of R152 takes a byte at least. -/
theorem scanMarker_got {cfg : Config} {prev : Option Byte} {rx rest : List RxAnswer}
    (h : scanMarker cfg prev rx = .got () rest) : rest.length < rx.length := by
  induction rx generalizing prev with
  | nil => cases h
  | cons a rx ih =>
    cases a with
    | err => cases h
    | byte b =>
      rw [scanMarker] at h
      split at h
      · cases h
        exact Nat.lt_succ_self _
      · exact Nat.lt_succ_of_lt (ih h)

/-- R152, phase after phase. -/
theorem receiveFrame_succ (cfg : Config) (fuel : Nat) (rx : List RxAnswer) :
    receiveFrame cfg (fuel + 1) rx =
      (scanMarker cfg none rx).bind fun _ rx => (readBytes 9 rx).bind fun h rx => (readBytes 2 rx).bind fun c rx =>
        if join16 (c.getD 0 0) (c.getD 1 0) = crc16 h then readPayload (headerOf h) rx
        else receiveFrame cfg fuel rx := by
  rw [receiveFrame]
  rcases scanMarker cfg none rx with ⟨_, rx⟩ | _ | _ <;> simp only [Reading.bind]
  rcases readBytes 9 rx with ⟨h, rx⟩ | _ | _ <;> simp only
  rcases readBytes 2 rx with ⟨c, rx⟩ | _ | _ <;> rfl

theorem readPayload_bind {h : Header} (declares : headerLen h ≠ 0) (rx : List RxAnswer) :
    readPayload h rx = (readBytes (headerLen h).toNat rx).bind fun p rest =>
      if crc16 p = headerPcs h then .got (.frame h (some p)) rest else .got (.payloadBad h) rest := by
  rw [readPayload, if_neg declares]
  cases readBytes (headerLen h).toNat rx <;> rfl

/-! ### The synchronizer does, phase after phase, what the procedure does -/

/-- `SCAN`. -/
theorem syncRun_scan (cfg : Config) (prev : Option Byte) (rx : List RxAnswer) :
    syncRun cfg (.scan prev) rx = (scanMarker cfg prev rx).bind fun _ rest => syncRun cfg (.header [] 0x0000) rest := by
  induction rx generalizing prev with
  | nil => rfl
  | cons a rx ih =>
    cases a with
    | err => rfl
    | byte b =>
      rw [syncRun_byte rfl, scanMarker, syncByte, scanByte]
      split
      · rfl
      · exact ih (some b)

/-- A phase in which a fixed number of bytes is read, whatever they are. -/
theorem syncRun_readBytes {cfg : Config} {n : Nat} {y : Sync} {next : List Byte → Sync}
    (reads : ∀ bytes : List Byte, bytes.length = n → Reads cfg y bytes (next bytes)) (rx : List RxAnswer) :
    syncRun cfg y rx = (readBytes n rx).bind fun bytes rest => syncRun cfg (next bytes) rest := by
  induction n generalizing y next rx with
  | zero =>
    rw [readBytes_zero]
    exact syncRun_reads (reads [] rfl) rx
  | succ n ih =>
    have noCheck : syncCheck y = none := by
      cases reads (List.replicate (n + 1) 0) (by simp) with
      | cons noCheck _ => exact noCheck
    match rx with
    | [] => exact syncRun_nil noCheck
    | .err :: rx => exact syncRun_err noCheck rx
    | .byte b :: rx =>
      have behind (bytes : List Byte) (length : bytes.length = n) :
          Reads cfg (syncByte cfg y b) bytes (next (b :: bytes)) := by
        cases reads (b :: bytes) (congrArg (· + 1) length) with
        | cons _ behind => exact behind
      rw [syncRun_byte noCheck, ih behind, readBytes_succ_byte]
      cases readBytes n rx <;> rfl

/-- `HEADER` and `HCS`. -/
theorem syncRun_header (cfg : Config) (rx : List RxAnswer) :
    syncRun cfg (.header [] 0x0000) rx =
      (readBytes 9 rx).bind fun h rx => (readBytes 2 rx).bind fun c rx => syncRun cfg (.hcs h c (crc16 h)) rx := by
  rw [syncRun_readBytes (n := 9) (next := fun h => .hcs h [] (crc16 h)) fun h => .wholeHeader]
  refine Reading.bind_congr fun h rx _ => syncRun_readBytes (fun c two => ?_) rx
  obtain ⟨lo, hi, rfl⟩ := List.length_eq_two.mp two
  exact .hcs h lo hi (crc16 h)

/-- `PAYLOAD`. -/
theorem syncRun_payload (cfg : Config) {h : Header} (declares : headerLen h ≠ 0) (rx : List RxAnswer) :
    syncRun cfg (.payload h [] 0x0000) rx = readPayload h rx := by
  rw [readPayload_bind declares, syncRun_readBytes (n := (headerLen h).toNat)
    (next := fun p => .payload h p (crc16 p)) fun p => .wholePayload]
  refine Reading.bind_congr fun p rx hp => ?_
  obtain ⟨declared, -⟩ := readBytes_got hp
  have check := syncCheck_payload declared (crc16 p)
  split
  next same => exact syncRun_done (check.trans (congrArg some (payloadCheck_match same))) rx
  next differ => exact syncRun_done (check.trans (congrArg some (payloadCheck_mismatch differ))) rx

/-- The header check: the payload, or the next candidate. -/
theorem syncRun_hcs (cfg : Config) (h : List Byte) (lo hi : Byte) (rx : List RxAnswer) :
    syncRun cfg (.hcs h [lo, hi] (crc16 h)) rx =
      if join16 lo hi = crc16 h then readPayload (headerOf h) rx else syncRun cfg freshScan rx := by
  have check : syncCheck (.hcs h [lo, hi] (crc16 h)) = some (headerCheck h lo hi (crc16 h)) := rfl
  split
  next same =>
    rw [headerCheck_match same] at check
    by_cases zero : headerLen (headerOf h) = 0
    · rw [if_pos zero] at check
      exact (syncRun_done check rx).trans (if_pos zero).symm
    · rw [if_neg zero] at check
      exact (syncRun_more check (syncCheck_payload_nil zero _) rx).trans (syncRun_payload cfg zero rx)
  next differ =>
    rw [headerCheck_mismatch differ] at check
    exact syncRun_more check rfl rx

/-- Every candidate takes answers, so the fuel outlasts the rescans. -/
theorem syncRun_eq_receiveFrame (cfg : Config) {fuel : Nat} {rx : List RxAnswer} (enough : rx.length < fuel) :
    syncRun cfg freshScan rx = receiveFrame cfg fuel rx := by
  induction fuel generalizing rx with
  | zero => exact absurd enough (Nat.not_lt_zero _)
  | succ fuel ih =>
    rw [receiveFrame_succ, freshScan, syncRun_scan]
    refine Reading.bind_congr fun _ afterMarker scanned => ?_
    rw [syncRun_header]
    refine Reading.bind_congr fun h afterHeader header => Reading.bind_congr fun c afterHcs hcs => ?_
    obtain ⟨two, rfl⟩ := readBytes_got hcs
    obtain ⟨-, rfl⟩ := readBytes_got header
    have shorter := scanMarker_got scanned
    simp only [List.length_append] at shorter
    obtain ⟨lo, hi, rfl⟩ := List.length_eq_two.mp two
    rw [syncRun_hcs, ih (by omega)]
    rfl

/-- Settles O29: `syncRun_eq_receiveFrame`. -/
theorem synchronizerRefinesProcedure : Obligations.SynchronizerRefinesProcedure := fun cfg rx =>
  syncRun_eq_receiveFrame cfg (Nat.lt_succ_self rx.length)

end Sys2Proof.Machine
end

section
/-! The reads of a receive cycle (44_receive.md R210, R211): the block takes the bytes ready for it through the
phases of the synchronizer, whichever command runs the cycle, and what becomes of a frame that fails a check or of a
read that fails (42_frame_codec.md R156 to R159). -/

namespace Sys2Proof.Machine

/-! ### The command that runs a receive cycle -/

/-- A `RECEIVE`, or the wait of a `SEND` in one of its attempts (R211). -/
inductive CycleOwner
  | receive
  | wait (f : SendFrame) (attempt : Nat)

/-- The hidden state of the command while its cycle is in this phase. -/
def CycleOwner.flight : CycleOwner → RxCycle → Flight
  | .receive, c => .receive c
  | .wait f n, c => .sendAcked f n (.waitReceive c)

theorem Flight.inCycle_iff (f : Flight) (c : RxCycle) : f.inCycle c ↔ ∃ o : CycleOwner, f = o.flight c := by
  constructor
  · rintro (rfl | ⟨fr, n, rfl⟩)
    · exact ⟨.receive, rfl⟩
    · exact ⟨.wait fr n, rfl⟩
  · rintro ⟨_ | ⟨fr, n⟩, rfl⟩
    · exact .inl rfl
    · exact .inr ⟨fr, n, rfl⟩

/-- While its cycle goes on the command only takes over the cycle's phase. -/
theorem CycleOwner.flightStep_more (o : CycleOwner) {c c' : RxCycle} {s t : State} (h : cycleStep c s = .more c' t) :
    flightStep (o.flight c) s = t.inFlight (o.flight c') := by
  cases o with
  | receive => simp only [CycleOwner.flight, flightStep, receiveStep, h]
  | wait f n => simp only [CycleOwner.flight, flightStep, sendAckedStep, waitReceive, h]

/-! ### The state after a number of reads -/

/-- `n` more reads have been answered, and these answers are ready for the next ones. -/
def State.afterReads (s : State) (n : Nat) (rx : List RxAnswer) : State :=
  { s with chan := { s.chan with rx := rx }, requests := s.requests ++ List.replicate n .read }

@[simp] theorem State.afterReads_afterReads (s : State) (m n : Nat) (rx rx' : List RxAnswer) :
    (s.afterReads m rx).afterReads n rx' = s.afterReads (m + n) rx' := by
  simp [State.afterReads]

theorem State.afterReads_zero {s : State} {rx : List RxAnswer} (stream : s.chan.rx = rx) : s.afterReads 0 rx = s := by
  subst stream
  simp [State.afterReads]

theorem chanRead_of_rx {s : State} {a : RxAnswer} {rx : List RxAnswer} (stream : s.chan.rx = a :: rx) :
    chanRead s = some (a, s.afterReads 1 rx) := by
  simp [chanRead, stream, State.afterReads, State.record]

/-! ### Steps and runs of a block with only its own steps to come -/

theorem runsTo_one {s t : State} (only : step s = .next t) : RunsTo 1 s t := runsTo_succ only rfl

section
variable {s : State} (configured : s.cfg.wf = true) (noTurns : s.turns = [])
include configured noTurns

theorem step_inFlight (f : Flight) : step (s.inFlight f) = .next (flightStep f (s.inFlight f)) := by
  have runs : (s.inFlight f).Runs f := ⟨configured, by simp [State.nextTurn, noTurns], rfl, rfl⟩
  have passed : (s.inFlight f).passTurn = s.inFlight f := by simp [State.passTurn, State.inFlight, noTurns]
  rw [runs.step_flight, passed]

/-- A byte read while no check is due. -/
theorem step_syncByte (o : CycleOwner) {y : Sync} {b : Byte} {rx : List RxAnswer} (noCheck : syncCheck y = none)
    (stream : s.chan.rx = .byte b :: rx) :
    step (s.inFlight (o.flight (.sync y))) =
      .next ((s.afterReads 1 rx).inFlight (o.flight (.sync (syncByte s.cfg y b)))) := by
  have read : cycleStep (.sync y) (s.inFlight (o.flight (.sync y))) =
      .more (.sync (syncByte s.cfg y b)) ((s.inFlight (o.flight (.sync y))).afterReads 1 rx) := by
    simp only [cycleStep, cycleSync, noCheck, cycleRead, chanRead_of_rx (s := s.inFlight _) stream]
    rfl
  rw [step_inFlight configured noTurns, o.flightStep_more read]
  rfl

/-- A check after which the synchronizer reads on. -/
theorem step_syncCheck (o : CycleOwner) {y z : Sync} (check : syncCheck y = some (.more z)) :
    step (s.inFlight (o.flight (.sync y))) = .next (s.inFlight (o.flight (.sync z))) := by
  have checked : cycleStep (.sync y) (s.inFlight (o.flight (.sync y))) =
      .more (.sync z) (s.inFlight (o.flight (.sync y))) := by
    simp only [cycleStep, cycleSync, check, cycleChecked]
  rw [step_inFlight configured noTurns, o.flightStep_more checked]
  rfl

/-- R158: a payload check that fails ends a `RECEIVE`. -/
theorem step_payloadBad {y : Sync} {h : Header} (check : syncCheck y = some (.done (.payloadBad h))) :
    step (s.inFlight (.receive (.sync y))) = .next (s.complete .ok (rxResult 0 h false)) := by
  rw [step_inFlight configured noTurns]
  simp only [flightStep, receiveStep, cycleStep, cycleSync, check, cycleChecked, completeReceive]
  rfl

theorem runsTo_reads (o : CycleOwner) {y z : Sync} {bytes : List Byte} {rx : List RxAnswer}
    (reads : Reads s.cfg y bytes z) (stream : s.chan.rx = asBytes bytes ++ rx) :
    RunsTo bytes.length (s.inFlight (o.flight (.sync y)))
      ((s.afterReads bytes.length rx).inFlight (o.flight (.sync z))) := by
  generalize hcfg : s.cfg = cfg at reads
  induction reads generalizing s with
  | nil =>
    have same := State.afterReads_zero (rx := rx) stream
    rw [List.length_nil, same]
    rfl
  | cons noCheck _ ih =>
    subst hcfg
    have rest := ih (s := s.afterReads 1 _) configured noTurns rfl rfl
    rw [State.afterReads_afterReads, Nat.add_comm 1] at rest
    exact runsTo_succ (step_syncByte configured noTurns o noCheck stream) rest

/-- R152: marker, header and header checksum, 13 bytes. -/
theorem runsTo_head (o : CycleOwner) {h : List Byte} {lo hi : Byte} {rx : List RxAnswer} (nine : h.length = 9)
    (stream : s.chan.rx = asBytes ([s.cfg.sync0, s.cfg.sync1] ++ h ++ [lo, hi]) ++ rx) :
    RunsTo 13 (s.inFlight (o.flight freshCycle))
      ((s.afterReads 13 rx).inFlight (o.flight (.sync (.hcs h [lo, hi] (crc16 h))))) := by
  have length : ([s.cfg.sync0, s.cfg.sync1] ++ h ++ [lo, hi]).length = 13 := by simp [nine]
  rw [← length]
  exact runsTo_reads configured noTurns o (.head (garbage := []) rfl (.inr (by simp)) nine lo hi) stream

/-- R156, R157: a frame that declares a payload, up to its payload check: a step for each byte and one for the
header check. -/
theorem runsTo_payload (o : CycleOwner) {h p : List Byte} {rx : List RxAnswer} (nine : h.length = 9)
    (declares : headerLen (headerOf h) ≠ 0) (declared : p.length = (headerLen (headerOf h)).toNat)
    (stream : s.chan.rx = asBytes (wireFrame s.cfg h p) ++ rx) :
    RunsTo (14 + p.length) (s.inFlight (o.flight freshCycle))
      ((s.afterReads (13 + p.length) rx).inFlight (o.flight (.sync (.payload (headerOf h) p (crc16 p))))) := by
  have parts : s.chan.rx = asBytes ([s.cfg.sync0, s.cfg.sync1] ++ h ++ [lo8 (crc16 h), hi8 (crc16 h)]) ++
      (asBytes p ++ rx) := by
    simpa [asBytes, wireFrame] using stream
  have check : syncCheck (.hcs h [lo8 (crc16 h), hi8 (crc16 h)] (crc16 h)) =
      some (.more (.payload (headerOf h) [] 0x0000)) :=
    congrArg some ((headerCheck_match (join16_lo8_hi8 _)).trans (if_neg declares))
  have checked := step_syncCheck (s := s.afterReads 13 (asBytes p ++ rx)) configured noTurns o check
  have read := runsTo_reads (s := s.afterReads 13 (asBytes p ++ rx)) (rx := rx) configured noTurns o
    (.wholePayload declared) rfl
  rw [State.afterReads_afterReads] at read
  have rest := runsTo_trans (runsTo_head configured noTurns o nine parts) (runsTo_succ checked read)
  rwa [Nat.add_comm p.length 1, ← Nat.add_assoc] at rest

end

/-! ### A frame that fails a check, and a read that fails -/

theorem State.Runs.inFlight_eq {s : State} {f : Flight} (runs : s.Runs f) : s.inFlight f = s := by
  obtain ⟨-, -, isBusy, flying⟩ := runs
  simp [State.inFlight, ← isBusy, ← flying]

/-- Settles O49: the 13 reads (`runsTo_head`), and the header check, which fails. -/
theorem headerMismatchRescans : Obligations.HeaderMismatchRescans := by
  intro s f h c0 c1 rx inCycle runs noTurns nine differ stream
  have ⟨configured, _, _, _⟩ := runs
  have flying := runs.inFlight_eq
  obtain ⟨o, rfl⟩ := (f.inCycle_iff _).mp inCycle
  have check : syncCheck (.hcs h [c0, c1] (crc16 h)) = some (.more freshScan) :=
    congrArg some (headerCheck_mismatch differ)
  have rescans := runsTo_trans (runsTo_head configured noTurns o nine stream)
    (runsTo_one (step_syncCheck (s := s.afterReads 13 rx) configured noTurns o check))
  rw [flying] at rescans
  exact rescans.trans (congrArg (fun t : State => Host.Outcome.next (t.afterReads 13 rx)) flying)

/-- Settles O48: the run up to the payload check (`runsTo_payload`), which fails. -/
theorem payloadMismatchProcessesNothing : Obligations.PayloadMismatchProcessesNothing := by
  intro s h p rx ready nine declares declared differ stream
  obtain ⟨configured, noTurns, -, -⟩ := ready
  have nonempty : p ≠ [] := by
    rintro rfl
    exact (headerLen_pos declares).ne declared
  have check : syncCheck (.payload (headerOf h) p (crc16 p)) = some (.done (.payloadBad (headerOf h))) :=
    (syncCheck_payload declared _).trans (congrArg some (payloadCheck_mismatch differ))
  have read := runsTo_payload configured noTurns .receive nine declares declared stream
  have ends := runsTo_one (step_payloadBad (s := s.afterReads (13 + p.length) rx) configured noTurns check)
  have steps : frameSteps p = 14 + p.length + 1 := by
    rw [frameSteps, if_neg nonempty]
    omega
  rw [steps]
  exact ⟨_, rfl, runsTo_trans read ends⟩

/-- Settles O50: no check is due, so the step is the read, and its error ends the cycle. -/
theorem readErrorEndsReceive : Obligations.ReadErrorEndsReceive := by
  intro s y rx runs noCheck stream
  rw [runs.step_flight]
  simp only [flightStep, receiveStep, cycleStep, cycleSync, noCheck, cycleRead,
    chanRead_of_rx (s := s.passTurn) stream, completeReceive]
  rfl

end Sys2Proof.Machine
end

section
/-! The payload buffer, the acceptance of a `SEND` and its allocation (43_transmit.md R180 to R183). -/

namespace Sys2Proof.Machine

/-- Settles O32: the opcode's command (`decode_of_opField`), and its meaning as it stands. -/
theorem txbClearEmpties : Obligations.TxbClearEmpties :=
  ⟨fun _ opcode => decode_of_opField (o := .txbClear) opcode, by decide, fun _ => rfl⟩

/-- Settles O33: the command either finds the buffer full or appends its byte. -/
theorem txbPushAppends : Obligations.TxbPushAppends := by
  refine ⟨fun _ opcode => decode_of_opField (o := .txbPush) opcode, fun b s => ?_⟩
  by_cases full : s.txb.length = 65535
  · rw [if_pos full]
    exact if_pos full
  · have room : exec (.txbPush b) s = .next ((s.setTxb (s.txb ++ [b])).complete .ok (long (s.txb ++ [b]).length)) :=
      if_neg full
    rw [if_neg full, room, List.length_append]
    rfl

theorem ackRequested_eq_bit (flags : Byte) : ackRequested flags = flags.getLsbD 0 := flagTest_eq_getLsbD flags 0

theorem failFlag_eq_bit (flags : Byte) : failFlag flags = flags.getLsbD 1 := flagTest_eq_getLsbD flags 1

/-- R182, R183: a `SEND` of a normal type takes the content of `TXB`. -/
theorem exec_send {ptype : Byte} (normal : ptype ≠ 0x00) (ver flags : Byte) (s : State) :
    exec (.send ptype ver flags) s = .next ((s.setTxb []).inFlight (.sendAlloc ptype ver flags s.txb)) :=
  if_neg normal

/-- R182: a `SEND` of type 0 is refused. -/
theorem exec_send_zero (ver flags : Byte) (s : State) :
    exec (.send 0x00 ver flags) s = .next (s.complete .badCommand 0) := rfl

/-- Settles O34: the refused and the accepted command, and the step of `ALLOC`, where `ACK_REQ` is bit 0 of the
flags. -/
theorem sendTakesPayloadAndAllocates : Obligations.SendTakesPayloadAndAllocates := by
  refine fun ptype ver flags => ⟨fun s => ?_, fun s p runs => ?_⟩
  · by_cases zero : ptype = 0x00
    · subst zero
      exact exec_send_zero ver flags s
    · rw [if_neg zero]
      exact exec_send zero ver flags s
  · rw [runs.step_flight, ← ackRequested_eq_bit, ← runs.inFlight_eq]
    rfl

end Sys2Proof.Machine
end

section
/-! The frame write (20_memory.md R57): one channel write after another, in a `SEND` with and without `ACK_REQ`
(43_transmit.md R184, R187, R189). -/

namespace Sys2Proof.Machine

/-! ### One channel write -/

/-- A write request for these bytes has been answered, and these answers are ready for the next ones. -/
def State.afterWrite (s : State) (a : WrAnswer) (bytes : List Byte) (wr : List WrAnswer) : State :=
  { s with
    chan := { s.chan with wr := wr, tx := s.chan.tx ++ accepted a bytes }
    requests := s.requests ++ [.write bytes] }

theorem chanWrite_of_wr {s : State} {a : WrAnswer} {wr : List WrAnswer} (answers : s.chan.wr = a :: wr)
    (bytes : List Byte) : chanWrite bytes s = some (a, s.afterWrite a bytes wr) := by
  simp [chanWrite, answers, State.afterWrite, State.record]

/-- R56: the request is unanswered while no answer is ready. -/
theorem writeStep_hold {s : State} (answers : s.chan.wr = []) (f : SendFrame) (p : WritePhase) :
    writeStep f p s = .hold := by
  simp [writeStep, chanWrite, answers]

theorem writeStep_ok {s : State} {wr : List WrAnswer} (answers : s.chan.wr = .ok :: wr) (f : SendFrame)
    (p : WritePhase) : writeStep f p s = afterWrite f p (s.afterWrite .ok (p.bytes f) wr) := by
  simp only [writeStep, chanWrite_of_wr answers]

theorem writeStep_err {s : State} {k : Nat} {wr : List WrAnswer} (answers : s.chan.wr = .err k :: wr)
    (f : SendFrame) (p : WritePhase) : writeStep f p s = .chanErr (s.afterWrite (.err k) (p.bytes f) wr) := by
  simp only [writeStep, chanWrite_of_wr answers]

/-! ### The command that writes a frame -/

/-- A `SEND` without `ACK_REQ`, or one of the attempts of a `SEND` with it. -/
inductive WriteOwner
  | once
  | attempt (n : Nat)

/-- The hidden state of the command while its frame write is in this phase. -/
def WriteOwner.flight (f : SendFrame) : WriteOwner → WritePhase → Flight
  | .once, p => .sendOnce f p
  | .attempt n, p => .sendAcked f n (.write p)

/-- What the command does once its frame is written (R184, R186). -/
def WriteOwner.written (f : SendFrame) (s : State) : WriteOwner → State
  | .once => s.completeSend f .ok
  | .attempt n => s.inFlight (.sendAcked f n .waitQuery)

section
variable (o : WriteOwner) {f : SendFrame} {p : WritePhase} {s t : State}

theorem WriteOwner.flightStep_more {p' : WritePhase} (h : writeStep f p s = .more p' t) :
    flightStep (o.flight f p) s = t.inFlight (o.flight f p') := by
  cases o with
  | once => simp only [WriteOwner.flight, flightStep, sendOnceStep, h]
  | attempt n => simp only [WriteOwner.flight, flightStep, sendAckedStep, attemptWrite, h]

theorem WriteOwner.flightStep_written (h : writeStep f p s = .written t) :
    flightStep (o.flight f p) s = o.written f t := by
  cases o with
  | once => simp only [WriteOwner.flight, flightStep, sendOnceStep, h, WriteOwner.written]
  | attempt n => simp only [WriteOwner.flight, flightStep, sendAckedStep, attemptWrite, h, WriteOwner.written]

/-- R189: a channel error completes the command in either case. -/
theorem WriteOwner.flightStep_chanErr (h : writeStep f p s = .chanErr t) :
    flightStep (o.flight f p) s = t.completeSend f .channelError := by
  cases o with
  | once => simp only [WriteOwner.flight, flightStep, sendOnceStep, h]
  | attempt n => simp only [WriteOwner.flight, flightStep, sendAckedStep, attemptWrite, h]

end

/-- Settles O36: either write, whichever command makes it, ends in the error's completion. -/
theorem sendWriteErrorCompletes : Obligations.SendWriteErrorCompletes := by
  intro s f n p k wr writing answers bytes
  obtain ⟨o, runs⟩ : ∃ o : WriteOwner, s.Runs (o.flight f p) :=
    writing.elim (⟨.once, ·⟩) (⟨.attempt n, ·⟩)
  rw [runs.step_flight, o.flightStep_chanErr (writeStep_err (s := s.passTurn) answers f p)]
  cases p <;> rfl

/-! ### A whole frame -/

/-- A frame has been written, and these answers are ready for the next writes. -/
def State.afterFrame (s : State) (f : SendFrame) (wr : List WrAnswer) : State :=
  { s with
    chan := { s.chan with wr := wr, tx := s.chan.tx ++ (f.head ++ f.payload) }
    requests := s.requests ++ (frameWrites f).map .write }

/-- R57: without a payload the frame is its head. -/
theorem State.afterWrite_head {f : SendFrame} (empty : f.payload = []) (s : State) (wr : List WrAnswer) :
    s.afterWrite .ok f.head wr = s.afterFrame f wr := by
  simp [State.afterWrite, State.afterFrame, frameWrites, empty, accepted]

/-- R57: with one it is the head and then the payload. -/
theorem State.afterWrite_payload {f : SendFrame} (nonempty : f.payload ≠ []) (s : State) (wr wr' : List WrAnswer) :
    (s.afterWrite .ok f.head wr').afterWrite .ok f.payload wr = s.afterFrame f wr := by
  simp [State.afterWrite, State.afterFrame, frameWrites, nonempty, accepted]

section
variable {s : State} (configured : s.cfg.wf = true) (noTurns : s.turns = [])
include configured noTurns

theorem step_written (o : WriteOwner) {f : SendFrame} {p : WritePhase} {wr : List WrAnswer}
    (answers : s.chan.wr = .ok :: wr) (last : p = .head → f.payload = []) :
    step (s.inFlight (o.flight f p)) = .next (o.written f (s.afterWrite .ok (p.bytes f) wr)) := by
  have write : writeStep f p (s.inFlight (o.flight f p)) =
      .written ((s.inFlight (o.flight f p)).afterWrite .ok (p.bytes f) wr) := by
    rw [writeStep_ok (s := s.inFlight _) answers]
    cases p with
    | head => exact if_pos (last rfl)
    | payload => rfl
  rw [step_inFlight configured noTurns, o.flightStep_written write]
  cases o <;> rfl

theorem step_headWritten (o : WriteOwner) {f : SendFrame} {wr : List WrAnswer}
    (answers : s.chan.wr = .ok :: wr) (nonempty : f.payload ≠ []) :
    step (s.inFlight (o.flight f .head)) = .next ((s.afterWrite .ok f.head wr).inFlight (o.flight f .payload)) := by
  have write : writeStep f .head (s.inFlight (o.flight f .head)) =
      .more .payload ((s.inFlight (o.flight f .head)).afterWrite .ok f.head wr) :=
    (writeStep_ok (s := s.inFlight _) answers f .head).trans (if_neg nonempty)
  rw [step_inFlight configured noTurns, o.flightStep_more write]
  rfl

/-- R57: the frame write of a `SEND`, with every write accepted. -/
theorem runsTo_frame (o : WriteOwner) {f : SendFrame} {wr : List WrAnswer}
    (answers : s.chan.wr = List.replicate (writeCount f) .ok ++ wr) :
    RunsTo (writeCount f) (s.inFlight (o.flight f .head)) (o.written f (s.afterFrame f wr)) := by
  by_cases empty : f.payload = []
  · have count : writeCount f = 1 := by simp [writeCount, frameWrites, empty]
    rw [count] at answers ⊢
    rw [← State.afterWrite_head empty]
    exact runsTo_one (step_written configured noTurns o answers fun _ => empty)
  · have count : writeCount f = 2 := by simp [writeCount, frameWrites, empty]
    rw [count] at answers ⊢
    rw [← State.afterWrite_payload empty s wr (.ok :: wr)]
    exact runsTo_two (step_headWritten configured noTurns o answers empty)
      (step_written (s := s.afterWrite .ok f.head (.ok :: wr)) configured noTurns o rfl nofun)

end

end Sys2Proof.Machine
end

section
/-! The wait of a `SEND` with `ACK_REQ` (43_transmit.md R185, R186, R188, R190): its query, how it takes the end of a
receive cycle, and its resolution. -/

namespace Sys2Proof.Machine

/-- R186: the wait takes the end of its receive cycle. -/
theorem flightStep_waitDone {c : RxCycle} {r : CycleResult} {s t : State} (h : cycleStep c s = .done r t)
    (f : SendFrame) (n : Nat) : flightStep (.sendAcked f n (.waitReceive c)) s = afterCycle f n r t := by
  simp only [flightStep, sendAckedStep, waitReceive, h]

/-- Settles O41: the end of the cycle (`flightStep_waitDone`), case by case. -/
theorem waitContinuesOrEnds : Obligations.WaitContinuesOrEnds := by
  intro s t f n c r runs ended
  rw [runs.step_flight, flightStep_waitDone (s := s.passTurn) ended]
  cases r with
  | chanErr => rfl
  | noFrame => rfl
  | ack => rfl
  | delivered => rfl
  | procErr => rfl

/-- R190: an id out of the window completes the wait at once. -/
theorem waitQuery_outOfWindow {s : State} {f : SendFrame} (evicted : s.queryPending f.mid = .outOfWindow) (n : Nat) :
    waitQuery f n s = s.completeSend f .timeout := by
  simp only [waitQuery, evicted]

/-- R186: while the id is pending a receive cycle begins. -/
theorem waitQuery_pending {s : State} {f : SendFrame} (pending : s.queryPending f.mid = .bit true) (n : Nat) :
    waitQuery f n s = s.inFlight ((CycleOwner.wait f n).flight freshCycle) := by
  simp only [waitQuery, pending, CycleOwner.flight]

/-- R188: a resolved id is looked up among the failed ones. -/
theorem waitQuery_resolved {s : State} {f : SendFrame} (resolved : s.queryPending f.mid = .bit false) (n : Nat) :
    waitQuery f n s = s.inFlight (.sendAcked f n .resolve) := by
  simp only [waitQuery, resolved]

theorem resolveSend_bit {s : State} {f : SendFrame} {failed : Bool} (query : s.queryFailed f.mid = .bit failed) :
    resolveSend f s = s.completeSend f (if failed then .packetFailure else .ok) := by
  cases failed <;> simp only [resolveSend, query] <;> rfl

/-- R190, R245: the id last allocated is in the window, so both queries answer with a bit. -/
theorem query_last {s : State} {m : Byte} (last : s.trkCounter = m + 1) :
    s.queryPending m = .bit (s.trkPending.getLsbD 0) ∧ s.queryFailed m = .bit (s.trkFailed.getLsbD 0) := by
  have inWindow := State.inWindow_last last
  rw [State.queryPending_inWindow inWindow, State.queryFailed_inWindow inWindow, State.pos_last last]
  exact ⟨rfl, rfl⟩

/-- Settles O42: the step of the query; and by the invariant the id in flight is the one last allocated. -/
theorem waitEvictionUnreachable : Obligations.WaitEvictionUnreachable := by
  refine ⟨fun s f n runs evicted => ?_, fun s f n p inv flying => ?_⟩
  · rw [runs.step_flight]
    exact congrArg Host.Outcome.next (waitQuery_outOfWindow (s := s.passTurn) evicted n)
  · obtain ⟨-, last, -⟩ := inv.flightOk _ flying
    obtain ⟨pending, failed⟩ := query_last last
    exact ⟨State.dist_last last, by simp [pending], by simp [failed]⟩

end Sys2Proof.Machine
end

section
/-! What stays the same while a `SEND` with `ACK_REQ` is in flight (43_transmit.md R187). -/

namespace Sys2Proof.Machine

/-- R187: a `SEND` with this frame and attempt has completed, goes on with the attempt, or begins the next one. -/
def AttemptGoesOn (f : SendFrame) (n last : Nat) (flight : Option Flight) : Prop :=
  flight = none ∨ ∃ n' p', flight = some (.sendAcked f n' p') ∧
    (n' = n ∨ (n' = n + 1 ∧ n ≠ last ∧ p' = .write .head))

section
variable {f : SendFrame} {n last : Nat}

theorem AttemptGoesOn.completed (s : State) (st : Status) : AttemptGoesOn f n last (s.completeSend f st).flight :=
  .inl rfl

theorem AttemptGoesOn.same (p : SendPhase) : AttemptGoesOn f n last (some (.sendAcked f n p)) :=
  .inr ⟨n, p, rfl, .inl rfl⟩

theorem AttemptGoesOn.next (more : n ≠ last) : AttemptGoesOn f n last (some (.sendAcked f (n + 1) (.write .head))) :=
  .inr ⟨n + 1, .write .head, rfl, .inr ⟨rfl, more, rfl⟩⟩

end

section
variable (f : SendFrame) (n : Nat) {s : State}

theorem attemptWrite_goesOn {p : WritePhase} (flying : s.flight = some (.sendAcked f n (.write p))) :
    AttemptGoesOn f n s.cfg.maxAttempts (attemptWrite f n p s).flight := by
  unfold attemptWrite
  split
  · rw [flying]
    exact .same _
  · exact .same _
  · exact .same _
  · exact .completed _ _

theorem waitQuery_goesOn : AttemptGoesOn f n s.cfg.maxAttempts (waitQuery f n s).flight := by
  unfold waitQuery
  split
  · exact .completed _ _
  · exact .same _
  · exact .same _

theorem afterCycle_goesOn (r : CycleResult) : AttemptGoesOn f n s.cfg.maxAttempts (afterCycle f n r s).flight := by
  cases r with
  | chanErr =>
    show AttemptGoesOn f n s.cfg.maxAttempts (failedAttempt f n s).flight
    unfold failedAttempt
    split
    · exact .completed _ _
    · exact .next ‹_›
  | noFrame => exact .same _
  | ack => exact .same _
  | delivered => exact .same _
  | procErr => exact .completed _ _

theorem waitReceive_goesOn {c : RxCycle} (flying : s.flight = some (.sendAcked f n (.waitReceive c))) :
    AttemptGoesOn f n s.cfg.maxAttempts (waitReceive f n c s).flight := by
  have keeps := cycleStep_keeps flying (.inr ⟨f, n, rfl⟩)
  unfold waitReceive
  cases ended : cycleStep c s with
  | hold =>
    rw [flying]
    exact .same _
  | more c' t => exact .same _
  | done r t =>
    rw [ended] at keeps
    rw [← keeps.block.cfg]
    exact afterCycle_goesOn f n r

theorem resolveSend_goesOn : AttemptGoesOn f n s.cfg.maxAttempts (resolveSend f s).flight := by
  unfold resolveSend
  split <;> exact .completed _ _

theorem sendAckedStep_goesOn {p : SendPhase} (flying : s.flight = some (.sendAcked f n p)) :
    AttemptGoesOn f n s.cfg.maxAttempts (sendAckedStep f n p s).flight := by
  cases p with
  | write w => exact attemptWrite_goesOn f n flying
  | waitQuery => exact waitQuery_goesOn f n
  | waitReceive c => exact waitReceive_goesOn f n flying
  | resolve => exact resolveSend_goesOn f n

end

/-- R185: outside `ALLOC` the command in flight leaves the counter. -/
theorem advance_trkCounter {s : State} {f : SendFrame} {n : Nat} {p : SendPhase}
    (flying : s.flight = some (.sendAcked f n p)) : (advance s).trkCounter = s.trkCounter := by
  cases (advance_can s).2 with
  | alloc phase => rw [flying] at phase; cases phase
  | ack _ _ counter => exact counter
  | same _ _ counter => exact counter

/-- R57: what an attempt does after a write that is accepted. -/
def WritePhase.next (f : SendFrame) : WritePhase → SendPhase
  | .head => if f.payload = [] then .waitQuery else .write .payload
  | .payload => .waitQuery

theorem attemptWrite_ok {s : State} {wr : List WrAnswer} (answers : s.chan.wr = .ok :: wr) (f : SendFrame) (n : Nat)
    (p : WritePhase) : (attemptWrite f n p s).flight = some (.sendAcked f n (p.next f)) := by
  simp only [attemptWrite, writeStep_ok answers]
  cases p with
  | head => by_cases empty : f.payload = [] <;> simp [afterWrite, WritePhase.next, empty]
  | payload => rfl

theorem attemptWrite_hold {s : State} (answers : s.chan.wr = []) (f : SendFrame) (n : Nat) (p : WritePhase) :
    attemptWrite f n p s = s := by
  simp only [attemptWrite, writeStep_hold answers]

theorem writeStep_after {s : State} {a : WrAnswer} {wr : List WrAnswer} (answers : s.chan.wr = a :: wr)
    (f : SendFrame) (p : WritePhase) : (writeStep f p s).after s = s.afterWrite a (p.bytes f) wr := by
  cases a with
  | ok => rw [writeStep_ok answers, afterWrite_after]
  | err k => rw [writeStep_err answers]; rfl

/-- R57: each write of an attempt carries the bytes of the frame held. -/
theorem attemptWrite_requests {s : State} {a : WrAnswer} {wr : List WrAnswer} (answers : s.chan.wr = a :: wr)
    (f : SendFrame) (n : Nat) (p : WritePhase) :
    (attemptWrite f n p s).requests = s.requests ++ [.write (p.bytes f)] := by
  have traffic := attemptWrite_traffic f n p s
  rw [writeStep_after answers] at traffic
  exact congrArg Traffic.requests traffic

/-- What `RetransmissionIsIdentical` says of the write of an attempt. -/
theorem attemptWrite_cases (s : State) (f : SendFrame) (n : Nat) (p : WritePhase) :
    (s.chan.wr = [] ∧ (attemptWrite f n p s).requests = s.requests ∧ (attemptWrite f n p s).flight = s.flight) ∨
    ∃ a wr, s.chan.wr = a :: wr ∧
      (attemptWrite f n p s).requests = s.requests ++ [.write (p.bytes f)] ∧
      (a = .ok → (attemptWrite f n p s).flight = some (.sendAcked f n (p.next f))) := by
  cases answers : s.chan.wr with
  | nil =>
    rw [attemptWrite_hold answers]
    exact .inl ⟨rfl, rfl, rfl⟩
  | cons a wr =>
    refine .inr ⟨a, wr, rfl, attemptWrite_requests answers f n p, ?_⟩
    rintro rfl
    exact attemptWrite_ok answers f n p

theorem advance_of_flight {s : State} {f : Flight} (flying : s.flight = some f) : advance s = flightStep f s := by
  simp only [advance, flying]

/-- Settles O40: another agent's step leaves the block's registers; the block's own is a phase of the `SEND`, which
keeps the attempt (`sendAckedStep_goesOn`) and writes the frame it holds (`attemptWrite_cases`). -/
theorem retransmissionIsIdentical : Obligations.RetransmissionIsIdentical := by
  intro s t f n p isBusy notReset flying stepped
  have other {writes : WritePhase → Prop} {u : State} (agent : SameRegisters s.passTurn u)
      (notBlock : s.nextTurn ≠ .block) :
      u.trkCounter = s.trkCounter ∧ AttemptGoesOn f n s.cfg.maxAttempts u.flight ∧
        ∀ w, p = .write w → s.nextTurn = .block → writes w := by
    refine ⟨agent.trkCounter, ?_, fun _ _ turn => absurd turn notBlock⟩
    rw [agent.flight, State.passTurn_flight, flying]
    exact .same p
  obtain ⟨-, is⟩ := step_is stepped
  cases is with
  | reset turn => exact absurd turn notReset
  | host turn keeps => exact other (hostStep_same _ _ keeps) (by simp [turn])
  | chan turn => exact other (chanStep_same _ _) (by simp [turn])
  | handler turn => exact other (handlerStep_same _ _) (by simp [turn])
  | busy turn =>
    have counter := advance_trkCounter (s := s.passTurn) flying
    have goesOn := sendAckedStep_goesOn f n (s := s.passTurn) flying
    rw [advance_of_flight (s := s.passTurn) flying] at counter ⊢
    refine ⟨counter, goesOn, ?_⟩
    rintro w rfl -
    cases w <;> exact attemptWrite_cases s.passTurn f n _
  | idle _ isIdle => cases isBusy.symm.trans isIdle
  | command _ isIdle => cases isBusy.symm.trans isIdle
  | reserved _ isIdle => cases isBusy.symm.trans isIdle

end Sys2Proof.Machine
end

section
/-! Runs of a `SEND` (43_transmit.md R182 to R188): its allocation, its frame writes, and the waits between them. -/

namespace Sys2Proof.Machine

/-! ### From the command to its first write -/

/-- R182, R183: a ready block accepts the `SEND`, which allocates its id and goes on as its flags ask. -/
theorem State.Ready.commandRunsTo_send {s t : State} (ready : s.Ready) {ptype ver flags : Byte}
    (normal : ptype ≠ 0x00) {n : Nat}
    (rest : RunsTo n ((s.setTxb []).allocId.inFlight (firstFlight flags (builtFrame ptype ver flags s.txb s))) t) :
    CommandRunsTo (.send ptype ver flags) (n + 1) s t := by
  obtain ⟨configured, noTurns, -, -⟩ := ready
  exact ⟨_, exec_send normal ver flags s, runsTo_succ (step_inFlight (s := s.setTxb []) configured noTurns _) rest⟩

theorem firstFlight_once {flags : Byte} (noAck : flags.getLsbD 0 = false) (f : SendFrame) :
    firstFlight flags f = WriteOwner.once.flight f .head := by
  rw [firstFlight, ackRequested_eq_bit, noAck]
  rfl

theorem firstFlight_acked {flags : Byte} (ack : flags.getLsbD 0 = true) (f : SendFrame) :
    firstFlight flags f = (WriteOwner.attempt 1).flight f .head := by
  rw [firstFlight, ackRequested_eq_bit, ack]
  rfl

/-- Settles O35: the allocation, then one frame write (`runsTo_frame`). -/
theorem sendWithoutAckWritesOnce : Obligations.SendWithoutAckWritesOnce := by
  intro ptype ver flags s wr ready normal noAck f answers
  have ⟨configured, noTurns, _, _⟩ := ready
  have written := runsTo_frame (s := (s.setTxb []).allocId) configured noTurns .once answers
  rw [← firstFlight_once noAck] at written
  rw [Nat.add_comm, List.append_assoc]
  exact ready.commandRunsTo_send normal written

/-! ### An attempt whose wait fails -/

/-- A failed attempt goes by the attempt alone, whatever the phase it failed in. -/
theorem failedAttempt_inFlight (f : SendFrame) (n : Nat) (s : State) (g : Flight) :
    failedAttempt f n (s.inFlight g) = failedAttempt f n s := by
  unfold failedAttempt
  rw [State.inFlight_cfg]
  split <;> rfl

theorem failedAttempt_last {s : State} {n : Nat} (last : n = s.cfg.maxAttempts) (f : SendFrame) :
    failedAttempt f n s = s.completeSend f .timeout :=
  if_pos last

theorem failedAttempt_more {s : State} {n : Nat} (more : n ≠ s.cfg.maxAttempts) (f : SendFrame) :
    failedAttempt f n s = s.inFlight ((WriteOwner.attempt (n + 1)).flight f .head) :=
  if_neg more

section
variable {s : State} (configured : s.cfg.wf = true) (noTurns : s.turns = [])
include configured noTurns

theorem step_waitPending {f : SendFrame} (pending : s.queryPending f.mid = .bit true) (n : Nat) :
    step (s.inFlight (.sendAcked f n .waitQuery)) =
      .next (s.inFlight ((CycleOwner.wait f n).flight freshCycle)) :=
  (step_inFlight configured noTurns _).trans
    (congrArg Host.Outcome.next (waitQuery_pending (s := s.inFlight _) pending n))

/-- R192: a read error fails the attempt. -/
theorem step_waitReadError {rx : List RxAnswer} (stream : s.chan.rx = .err :: rx) (f : SendFrame) (n : Nat) :
    step (s.inFlight ((CycleOwner.wait f n).flight freshCycle)) = .next (failedAttempt f n (s.afterReads 1 rx)) := by
  have read : cycleStep freshCycle (s.inFlight ((CycleOwner.wait f n).flight freshCycle)) =
      .done .chanErr ((s.afterReads 1 rx).inFlight ((CycleOwner.wait f n).flight freshCycle)) := by
    simp only [freshCycle, freshScan, cycleStep, cycleSync, syncCheck, cycleRead,
      chanRead_of_rx (s := s.inFlight _) stream]
    rfl
  rw [step_inFlight configured noTurns]
  exact congrArg Host.Outcome.next ((flightStep_waitDone read f n).trans (failedAttempt_inFlight f n _ _))

/-- R185, R192: an attempt whose first read is answered by a channel error. -/
theorem runsTo_failedAttempt {f : SendFrame} (pending : s.queryPending f.mid = .bit true) {wr : List WrAnswer}
    {rx : List RxAnswer} (answers : s.chan.wr = List.replicate (writeCount f) .ok ++ wr)
    (stream : s.chan.rx = .err :: rx) (n : Nat) :
    RunsTo (writeCount f + 2) (s.inFlight ((WriteOwner.attempt n).flight f .head))
      (failedAttempt f n ((s.afterFrame f wr).afterReads 1 rx)) :=
  runsTo_trans (runsTo_frame configured noTurns (.attempt n) answers)
    (runsTo_two (step_waitPending (s := s.afterFrame f wr) configured noTurns pending n)
      (step_waitReadError (s := s.afterFrame f wr) configured noTurns stream f n))

end

/-! ### Every wait fails -/

/-- The frame of a `SEND` has been written `m` times, each time with a read that failed behind it, and these answers
are ready for the next requests. -/
def State.afterFailures (s : State) (f : SendFrame) (m : Nat) (wr : List WrAnswer) (rx : List RxAnswer) : State :=
  { s with
    chan := { rx := rx, wr := wr, tx := s.chan.tx ++ (List.replicate m (f.head ++ f.payload)).flatten }
    requests := s.requests ++ (List.replicate m ((frameWrites f).map Request.write ++ [.read])).flatten }

theorem State.afterFailures_one (s : State) (f : SendFrame) (wr : List WrAnswer) (rx : List RxAnswer) :
    (s.afterFrame f wr).afterReads 1 rx = s.afterFailures f 1 wr rx := by
  simp [State.afterFailures, State.afterFrame, State.afterReads]

theorem State.afterFailures_succ (s : State) (f : SendFrame) (m : Nat) (wr wr' : List WrAnswer)
    (rx rx' : List RxAnswer) :
    (s.afterFailures f 1 wr' rx').afterFailures f m wr rx = s.afterFailures f (m + 1) wr rx := by
  simp [State.afterFailures, List.replicate_succ]

/-- R185: from attempt `n` on every attempt fails, until none is left. -/
theorem runsTo_exhausted {s : State} {f : SendFrame} {n m : Nat} {wr : List WrAnswer} {rx : List RxAnswer}
    (configured : s.cfg.wf = true) (noTurns : s.turns = []) (pending : s.queryPending f.mid = .bit true)
    (left : n + m = s.cfg.maxAttempts)
    (answers : s.chan.wr = List.replicate ((m + 1) * writeCount f) .ok ++ wr)
    (stream : s.chan.rx = List.replicate (m + 1) .err ++ rx) :
    RunsTo ((m + 1) * (writeCount f + 2)) (s.inFlight ((WriteOwner.attempt n).flight f .head))
      ((s.afterFailures f (m + 1) wr rx).completeSend f .timeout) := by
  induction m generalizing s n with
  | zero =>
    rw [Nat.zero_add, Nat.one_mul] at answers ⊢
    have failed := runsTo_failedAttempt configured noTurns pending answers stream n
    rwa [State.afterFailures_one, failedAttempt_last (by exact left)] at failed
  | succ m ih =>
    have more : n ≠ s.cfg.maxAttempts := by omega
    have leftNext : n + 1 + m = s.cfg.maxAttempts := by omega
    rw [Nat.succ_mul, Nat.add_comm, List.replicate_add, List.append_assoc] at answers
    have failed := runsTo_failedAttempt configured noTurns pending answers stream n
    rw [State.afterFailures_one, failedAttempt_more (by exact more)] at failed
    have rest := ih (s := s.afterFailures f 1 _ _) configured noTurns pending leftNext rfl rfl
    rw [State.afterFailures_succ] at rest
    rw [Nat.succ_mul (m + 1), Nat.add_comm]
    exact runsTo_trans failed rest

/-- Settles O39: the allocation, then the attempts (`runsTo_exhausted`). -/
theorem exhaustedSendTimesOut : Obligations.ExhaustedSendTimesOut := by
  intro ptype ver flags s wr rx ready normal ack f m answers stream
  have ⟨configured, noTurns, _, _⟩ := ready
  have positive : 1 ≤ s.cfg.maxAttempts := ((Config.wf_iff s.cfg).mp configured).1
  obtain ⟨k, attempts⟩ : ∃ k, m = k + 1 := Nat.exists_eq_add_of_le' positive
  rw [attempts] at answers stream ⊢
  have exhausted := runsTo_exhausted (s := (s.setTxb []).allocId) (f := f) (n := 1) configured noTurns
    (s.setTxb []).allocId_query.1 ((Nat.add_comm 1 k).trans attempts.symm) answers stream
  rw [← firstFlight_acked ack] at exhausted
  rw [Nat.add_comm 1]
  exact ready.commandRunsTo_send normal exhausted

end Sys2Proof.Machine
end

section
/-! A `SEND` whose wait receives its acknowledgement (43_transmit.md R186, R188, 44_receive.md R212), at once or in a
later attempt (R192). -/

namespace Sys2Proof.Machine

/-! ### The mark of the id last allocated (45_tracker.md R242, R243) -/

theorem shiftMask_bit_zero (w : Window) (v : Long) : (shiftMask w v)[0] = false := by
  simpa using shiftMask_bit w v 0

theorem setMaskBit_shiftMask_one (w : Window) (v : Long) : setMaskBit (shiftMask w v ||| 1) 0 false = shiftMask w v := by
  apply BitVec.eq_of_getLsbD_eq
  intro i _
  rw [setMaskBit_bit _ 0 _ (by decide)]
  by_cases first : i = 0 <;> simp [first, BitVec.getLsbD_or, BitVec.getLsbD_one, shiftMask_bit_zero]

theorem setMaskBit_shiftMask (w : Window) (v : Long) (b : Bool) :
    setMaskBit (shiftMask w v) 0 b = shiftMask w v ||| (if b then 1 else 0) := by
  apply BitVec.eq_of_getLsbD_eq
  intro i _
  rw [setMaskBit_bit _ 0 _ (by decide)]
  cases b <;> by_cases first : i = 0 <;> simp [first, BitVec.getLsbD_or, BitVec.getLsbD_one, shiftMask_bit_zero]

/-- The parameters and the tracker of `s` are as an allocation in `t` left them. -/
structure JustAllocated (t s : State) : Prop where
  cfg : s.cfg = t.allocId.cfg
  counter : s.trkCounter = t.allocId.trkCounter
  pending : s.trkPending = t.allocId.trkPending
  failed : s.trkFailed = t.allocId.trkFailed

/-- The id allocated in `t` is no longer pending, and failed or not. -/
def State.resolved (s t : State) (failed : Bool) : State :=
  { s with
    trkPending := shiftMask t.cfg.w t.trkPending
    trkFailed := shiftMask t.cfg.w t.trkFailed ||| (if failed then 1 else 0) }

namespace JustAllocated

variable {s t : State} (allocated : JustAllocated t s)
include allocated

theorem queryPending : s.queryPending t.trkCounter = .bit true :=
  (State.queryPending_congr allocated.cfg allocated.counter allocated.pending _).trans t.allocId_query.1

/-- R243: the mark of the id last allocated replaces bit 0 of each mask. -/
theorem markId (b : Bool) : s.markId t.trkCounter false b = s.resolved t b := by
  have last : s.trkCounter = t.trkCounter + 1 := allocated.counter
  rw [State.markId, if_pos (State.inWindow_last last), State.pos_last last, allocated.pending, allocated.failed,
    State.allocId_trkPending, State.allocId_trkFailed, setMaskBit_shiftMask_one, setMaskBit_shiftMask]
  rfl

/-- R244, R245: both queries read the mark back. -/
theorem query_resolved (b : Bool) :
    (s.resolved t b).queryPending t.trkCounter = .bit false ∧ (s.resolved t b).queryFailed t.trkCounter = .bit b := by
  rw [← allocated.markId]
  exact State.markId_query false b (State.inWindow_last allocated.counter)

end JustAllocated

theorem State.markId_inFlight (s : State) (g : Flight) (m : Byte) (p f : Bool) :
    (s.inFlight g).markId m p f = (s.markId m p f).inFlight g := by
  unfold State.markId
  rw [(State.window_congr (s := s) (t := s.inFlight g) rfl rfl m).1]
  split <;> rfl

/-! ### The wait receives an acknowledgement -/

section
variable {s : State} (configured : s.cfg.wf = true) (noTurns : s.turns = [])
include configured noTurns

/-- R152, R157: a valid frame, up to the check that delivers it. -/
theorem runsTo_validFrame (o : CycleOwner) {h p : List Byte} {rx : List RxAnswer} (valid : validFrame h p)
    (stream : s.chan.rx = asBytes (wireFrame s.cfg h p) ++ rx) :
    ∃ n y, frameSteps p = n + 1 ∧
      syncCheck y = some (.done (.frame (headerOf h) (if p = [] then none else some p))) ∧
      RunsTo n (s.inFlight (o.flight freshCycle)) ((s.afterReads (13 + p.length) rx).inFlight (o.flight (.sync y))) := by
  obtain ⟨nine, declared, sum⟩ := valid
  by_cases empty : p = []
  · subst empty
    have zero : headerLen (headerOf h) = 0 := BitVec.eq_of_toNat_eq declared.symm
    have check := headerCheck_match (h := h) (join16_lo8_hi8 (crc16 h))
    rw [if_pos zero] at check
    have head : s.chan.rx = asBytes ([s.cfg.sync0, s.cfg.sync1] ++ h ++ [lo8 (crc16 h), hi8 (crc16 h)]) ++ rx := by
      simpa [wireFrame] using stream
    rw [if_pos rfl]
    exact ⟨13, .hcs h [lo8 (crc16 h), hi8 (crc16 h)] (crc16 h), rfl, congrArg some check,
      runsTo_head configured noTurns o nine head⟩
  · have declares : headerLen (headerOf h) ≠ 0 := fun zero =>
      empty (List.eq_nil_of_length_eq_zero (by simpa [zero] using declared))
    have check := (syncCheck_payload declared _).trans (congrArg some (payloadCheck_match (sum empty)))
    rw [if_neg empty]
    refine ⟨14 + p.length, _, ?_, check, runsTo_payload configured noTurns o nine declares declared stream⟩
    rw [frameSteps, if_neg empty]
    omega

/-- R212: the ack frame that has passed its check is marked, and the wait goes on. -/
theorem step_ackDelivered {y : Sync} {h : Header} {p : Option (List Byte)}
    (check : syncCheck y = some (.done (.frame h p))) (isAck : h.ptype = 0x00) (f : SendFrame) (n : Nat) :
    step (s.inFlight ((CycleOwner.wait f n).flight (.sync y))) =
      .next ((s.markId h.mid false (failFlag h.flags)).inFlight (.sendAcked f n .waitQuery)) := by
  have delivered : cycleStep (.sync y) (s.inFlight ((CycleOwner.wait f n).flight (.sync y))) =
      .done (.ack h) ((s.inFlight ((CycleOwner.wait f n).flight (.sync y))).markId h.mid false (failFlag h.flags)) := by
    simp only [cycleStep, cycleSync, check, cycleChecked, dispatchFrame, if_pos isAck]
  rw [State.markId_inFlight] at delivered
  exact (step_inFlight configured noTurns _).trans (congrArg Host.Outcome.next (flightStep_waitDone delivered f n))

/-- R186, R188: the query finds the id resolved, and the failure bit completes the `SEND`. -/
theorem runsTo_resolved {f : SendFrame} {failed : Bool} (resolved : s.queryPending f.mid = .bit false)
    (outcome : s.queryFailed f.mid = .bit failed) (n : Nat) :
    RunsTo 2 (s.inFlight (.sendAcked f n .waitQuery))
      (s.completeSend f (if failed then .packetFailure else .ok)) :=
  runsTo_two
    ((step_inFlight configured noTurns _).trans
      (congrArg Host.Outcome.next (waitQuery_resolved (s := s.inFlight _) resolved n)))
    ((step_inFlight configured noTurns _).trans
      (congrArg Host.Outcome.next (resolveSend_bit (s := s.inFlight _) outcome)))

/-- R186, R188: an attempt whose wait first receives an ack frame of the id: its frame write, the query that finds the
id pending, the frame, and the resolution. -/
theorem runsTo_acknowledgedAttempt {t : State} (allocated : JustAllocated t s) {f : SendFrame}
    (holds : f.mid = t.trkCounter) {h p : List Byte} (valid : validFrame h p) (isAck : (headerOf h).ptype = 0x00)
    (own : (headerOf h).mid = t.trkCounter) {failed : Bool} (outcome : failFlag (headerOf h).flags = failed)
    {wr : List WrAnswer} {rx : List RxAnswer} (answers : s.chan.wr = List.replicate (writeCount f) .ok ++ wr)
    (stream : s.chan.rx = asBytes (wireFrame s.cfg h p) ++ rx) (n : Nat) :
    RunsTo (writeCount f + (frameSteps p + 3)) (s.inFlight ((WriteOwner.attempt n).flight f .head))
      ((((s.afterFrame f wr).afterReads (13 + p.length) rx).resolved t failed).completeSend f
        (if failed then .packetFailure else .ok)) := by
  obtain ⟨cfg, counter, pending, unfailed⟩ := allocated
  have writtenAlloc : JustAllocated t (s.afterFrame f wr) := ⟨cfg, counter, pending, unfailed⟩
  have readAlloc : JustAllocated t ((s.afterFrame f wr).afterReads (13 + p.length) rx) :=
    ⟨cfg, counter, pending, unfailed⟩
  have written := runsTo_frame configured noTurns (.attempt n) answers
  have queried := step_waitPending (s := s.afterFrame f wr) configured noTurns
    (by rw [holds]; exact writtenAlloc.queryPending) n
  obtain ⟨reads, y, steps, check, received⟩ :=
    runsTo_validFrame (s := s.afterFrame f wr) configured noTurns (.wait f n) valid stream
  have delivered := step_ackDelivered (s := (s.afterFrame f wr).afterReads (13 + p.length) rx) configured noTurns check
    isAck f n
  rw [own, outcome, readAlloc.markId] at delivered
  obtain ⟨notPending, failure⟩ := readAlloc.query_resolved failed
  rw [← holds] at notPending failure
  have completed := runsTo_resolved (s := ((s.afterFrame f wr).afterReads (13 + p.length) rx).resolved t failed)
    configured noTurns notPending failure n
  rw [steps]
  exact runsTo_trans written (runsTo_succ queried (runsTo_trans received (runsTo_succ delivered completed)))

end

theorem acknowledged_code (failed : Bool) :
    (if failed then Status.packetFailure else .ok).code = if failed then 3 else 0 := by
  cases failed <;> rfl

/-- Settles O37: the allocation, then an attempt that is acknowledged. -/
theorem ackedSendResolves : Obligations.AckedSendResolves := by
  intro ptype ver flags s wr ah ap rx ready normal ack valid isAck own f failed answers stream
  have ⟨configured, noTurns, _, _⟩ := ready
  have run := runsTo_acknowledgedAttempt (s := (s.setTxb []).allocId) (t := s.setTxb []) (f := f) configured noTurns
    ⟨rfl, rfl, rfl, rfl⟩ rfl valid isAck own (failFlag_eq_bit _) answers stream 1
  rw [← firstFlight_acked ack] at run
  rw [← acknowledged_code, List.append_assoc s.chan.tx]
  exact ready.commandRunsTo_send normal run

/-- Settles O38: the allocation, an attempt that fails, and a second one that is acknowledged. -/
theorem retryWritesTheSameFrame : Obligations.RetryWritesTheSameFrame := by
  intro ptype ver flags s wr ah ap rx ready normal ack twice valid isAck own f failed answers stream
  have ⟨configured, noTurns, _, _⟩ := ready
  have more : 1 ≠ s.cfg.maxAttempts := by omega
  rw [List.replicate_add, List.append_assoc] at answers
  have first := runsTo_failedAttempt (s := (s.setTxb []).allocId) (f := f) configured noTurns
    (s.setTxb []).allocId_query.1 answers stream 1
  rw [failedAttempt_more (by exact more), ← firstFlight_acked ack] at first
  have second := runsTo_acknowledgedAttempt (t := s.setTxb []) (f := f) (rx := rx)
    (s := ((s.setTxb []).allocId.afterFrame f (List.replicate (writeCount f) .ok ++ wr)).afterReads 1
      (asBytes (wireFrame s.cfg ah ap) ++ rx))
    configured noTurns ⟨rfl, rfl, rfl, rfl⟩ rfl valid isAck own (failFlag_eq_bit _) rfl rfl 2
  have steps : writeCount f + writeCount f + frameSteps ap + 6 =
      writeCount f + 2 + (writeCount f + (frameSteps ap + 3)) + 1 := by omega
  rw [← acknowledged_code, steps]
  exact ready.commandRunsTo_send normal (runsTo_trans first second)

end Sys2Proof.Machine
end

section
/-! What a command in flight changes of the block's registers (44_receive.md R211, R212, 20_memory.md R62). -/

namespace Sys2Proof.Machine

/-- R33: the phase in which an ack frame is due is not `ALLOC`. -/
theorem State.ackDue.notAlloc {s : State} {h : Header} (due : s.ackDue h) (ptype ver flags : Byte) (p : List Byte) :
    s.flight ≠ some (.sendAlloc ptype ver flags p) := by
  obtain ⟨f, y, q, flying, inCycle, -⟩ := due
  rw [flying]
  rcases inCycle with rfl | ⟨_, _, rfl⟩ <;> exact nofun

theorem State.markId_passTurn (s : State) (m : Byte) (p f : Bool) :
    s.passTurn.markId m p f = (s.markId m p f).passTurn := by
  unfold State.markId
  rw [(State.window_congr (s := s) (t := s.passTurn) rfl rfl m).1]
  split <;> rfl

/-- R26: the step of a busy block. -/
theorem step_busy {s : State} (configured : s.cfg.wf = true) (turn : s.nextTurn = .block) (isBusy : s.busy = true) :
    step s = .next (advance s.passTurn) :=
  (step_of_nextTurn configured turn).trans (if_pos isBusy)

/-- Settles O54: the three cases of `advance_can`, which exclude each other. -/
theorem commandInFlightChangesOnlyMarks : Obligations.CommandInFlightChangesOnlyMarks := by
  intro s t isBusy turn stepped
  have configured := (step_is stepped).1
  cases (step_busy configured turn isBusy).symm.trans stepped
  obtain ⟨block, tracker⟩ := advance_can s.passTurn
  refine ⟨block.crc, block.txb, ?_⟩
  cases tracker with
  | alloc phase counter pending failed =>
    exact ⟨fun _ _ _ _ _ => ⟨counter, pending, failed⟩, fun h due => absurd phase (due.notAlloc _ _ _ _),
      fun notAlloc => absurd phase (notAlloc _ _ _ _)⟩
  | @ack h due only counter pending failed =>
    rw [State.markId_passTurn, failFlag_eq_bit] at pending failed
    refine ⟨fun ptype ver flags p phase => absurd phase (due.notAlloc ptype ver flags p), fun h' due' => ?_,
      fun _ notAck => absurd due (notAck h)⟩
    obtain rfl := only h' due'
    exact ⟨counter, pending, failed⟩
  | same notAlloc notAck counter pending failed =>
    exact ⟨fun _ _ _ _ phase => absurd phase (notAlloc _ _ _ _), fun h due => absurd due (notAck h),
      fun _ _ => ⟨counter, pending, failed⟩⟩

end Sys2Proof.Machine
end

section
/-! The command `RECEIVE` and the layout of its result (44_receive.md R210, R216). -/

namespace Sys2Proof.Machine

/-- Settles O43: the opcode's command (`decode_of_opField`), and its meaning as it stands. -/
theorem receiveStartsFreshCycle : Obligations.ReceiveStartsFreshCycle :=
  ⟨fun _ opcode => decode_of_opField (o := .receive) opcode, by decide, fun _ => rfl⟩

theorem rxResult_bit_two (o : BitVec 2) (h : Header) (a : Bool) : (rxResult o h a).getLsbD 2 = a := by
  rw [rxResult, BitVec.getLsbD_append, BitVec.getLsbD_append]
  cases a <;> rfl

/-- Settles O44: each field stands on those below it, which `extractLsb'_append_eq_of_le` takes away one by one. -/
theorem receiveResultLayout : Obligations.ReceiveResultLayout := by
  intro o h a r
  refine ⟨BitVec.extractLsb'_append_eq_right, rxResult_bit_two o h a, ?_, ?_, ?_, ?_, ?_, ?_, ?_⟩
  all_goals simp only [r, rxResult, BitVec.extractLsb'_append_eq_of_le, Nat.reduceLeDiff, Nat.reduceSub]
  case refine_7 => exact BitVec.extractLsb'_eq_self
  all_goals exact BitVec.extractLsb'_append_eq_right

end Sys2Proof.Machine
end

section
/-! A `RECEIVE` that receives a valid frame: an ack frame is marked (44_receive.md R212), a normal one goes to the
handler and is acknowledged when it asks for it (R213 to R215). -/

namespace Sys2Proof.Machine

/-! ### The end of the cycle of a `RECEIVE` (R210) -/

/-- The completion discards the phase in which the cycle ended. -/
theorem completeReceive_inFlight (r : CycleResult) (s : State) (g : Flight) :
    completeReceive r (s.inFlight g) = completeReceive r s := by
  cases r <;> rfl

theorem flightStep_receiveDone {c : RxCycle} {r : CycleResult} {s t : State} (h : cycleStep c s = .done r t) :
    flightStep (.receive c) s = completeReceive r t := by
  simp only [flightStep, receiveStep, h]

theorem completeReceive_dispatched (h : Header) (failed a : Bool) (s : State) :
    completeReceive (dispatched h failed a) s =
      s.complete (if failed then .processingError else .ok) (rxResult 2 h a) := by
  cases failed <;> rfl

/-! ### The state after marks, requests and the ack response -/

theorem State.markId_afterReads (s : State) (n : Nat) (rx : List RxAnswer) (m : Byte) (p f : Bool) :
    (s.afterReads n rx).markId m p f =
      { s.afterReads n rx with
        trkPending := (s.markId m p f).trkPending, trkFailed := (s.markId m p f).trkFailed } := by
  unfold State.markId
  rw [(State.window_congr (s := s) (t := s.afterReads n rx) rfl rfl m).1]
  split <;> rfl

/-- These handler requests have been answered, and these answers are ready for the next ones. -/
def State.afterAsks (s : State) (asked : List Request) (answers : List HdAnswer) : State :=
  { s with handler := { answers := answers }, requests := s.requests ++ asked }

theorem State.afterAsks_afterAsks (s : State) (asked asked' : List Request) (answers answers' : List HdAnswer) :
    (s.afterAsks asked answers).afterAsks asked' answers' = s.afterAsks (asked ++ asked') answers' := by
  simp [State.afterAsks]

theorem handlerAsk_of_answers {s : State} {a : HdAnswer} {answers : List HdAnswer}
    (ready : s.handler.answers = a :: answers) (r : Request) :
    handlerAsk r s = some (a, s.afterAsks [r] answers) := by
  simp [handlerAsk, ready, State.afterAsks, State.record]

/-- R214: the bytes of the ack response, none where the frame did not ask for one. -/
def ackBytes (cfg : Config) (h : Header) (failed : Bool) : List Byte :=
  if h.flags.getLsbD 0 then ackFrame cfg h.mid failed else []

/-- R214: the ack response has been written where the frame asked for one. -/
def State.afterAck (s : State) (h : Header) (failed : Bool) (wr : List WrAnswer) : State :=
  { s with
    chan := { s.chan with wr := wr, tx := s.chan.tx ++ ackBytes s.cfg h failed }
    requests := s.requests ++ if h.flags.getLsbD 0 then [.write (ackBytes s.cfg h failed)] else [] }

theorem State.afterAck_asked {h : Header} (asks : h.flags.getLsbD 0 = true) (s : State) (failed : Bool)
    (wr : List WrAnswer) : s.afterAck h failed wr = s.afterWrite .ok (ackFrame s.cfg h.mid failed) wr := by
  simp [State.afterAck, State.afterWrite, ackBytes, asks, accepted]

theorem State.afterAck_notAsked {h : Header} (noAsk : h.flags.getLsbD 0 = false) {s : State} {wr : List WrAnswer}
    (answers : s.chan.wr = wr) (failed : Bool) : s.afterAck h failed wr = s := by
  subst answers
  simp only [State.afterAck, ackBytes, noAsk, Bool.false_eq_true, if_false, List.append_nil]

/-- R213: what the handler answers to a frame; `none` where it refuses to create the packet. -/
def handlerAnswers : Option HdAnswer → List HdAnswer
  | none => [.fail]
  | some a => [.ok, a]

/-- R213: what the handler is asked for a frame. -/
def handlerRequests (h : Header) (p : Option (List Byte)) (process : Option HdAnswer) : List Request :=
  .create h.pv h.ptype h.ver h.flags ::
    match process with
    | none => []
    | some _ => [.process p]

/-! ### What the dispatch phases do with the answer they get -/

theorem cycleCreate_fail {s : State} {answers : List HdAnswer} (ready : s.handler.answers = .fail :: answers)
    (h : Header) (p : Option (List Byte)) :
    cycleCreate h p s = afterHandler h true (s.afterAsks [.create h.pv h.ptype h.ver h.flags] answers) := by
  simp only [cycleCreate, handlerAsk_of_answers ready]

theorem cycleCreate_ok {s : State} {answers : List HdAnswer} (ready : s.handler.answers = .ok :: answers)
    (h : Header) (p : Option (List Byte)) :
    cycleCreate h p s = .more (.process h p) (s.afterAsks [.create h.pv h.ptype h.ver h.flags] answers) := by
  simp only [cycleCreate, handlerAsk_of_answers ready]

theorem cycleProcess_of_answers {s : State} {a : HdAnswer} {answers : List HdAnswer}
    (ready : s.handler.answers = a :: answers) (h : Header) (p : Option (List Byte)) :
    cycleProcess h p s = afterHandler h (a != .ok) (s.afterAsks [.process p] answers) := by
  simp only [cycleProcess, handlerAsk_of_answers ready]
  cases a <;> rfl

theorem cycleAckWrite_ok {s : State} {wr : List WrAnswer} (answers : s.chan.wr = .ok :: wr) (h : Header)
    (failed : Bool) :
    cycleAckWrite h failed s =
      .done (dispatched h failed true) (s.afterWrite .ok (ackFrame s.cfg h.mid failed) wr) := by
  simp only [cycleAckWrite, chanWrite_of_wr answers]

section
variable {s : State} (configured : s.cfg.wf = true) (noTurns : s.turns = [])
include configured noTurns

/-! ### Steps and runs from the frame's check to the completion -/

/-- The step in which the cycle goes on. -/
theorem step_cycleMore (o : CycleOwner) {c c' : RxCycle} {t : State} {g : Flight}
    (goesOn : cycleStep c (s.inFlight (o.flight c)) = .more c' (t.inFlight g)) :
    step (s.inFlight (o.flight c)) = .next (t.inFlight (o.flight c')) := by
  rw [step_inFlight configured noTurns, o.flightStep_more goesOn]
  rfl

/-- R210: the step that ends the cycle completes the `RECEIVE`. -/
theorem step_receiveDone {c : RxCycle} {r : CycleResult} {t : State} {g : Flight}
    (ends : cycleStep c (s.inFlight (.receive c)) = .done r (t.inFlight g)) :
    step (s.inFlight (.receive c)) = .next (completeReceive r t) := by
  rw [step_inFlight configured noTurns, flightStep_receiveDone ends, completeReceive_inFlight]

/-- R212: the ack frame that has passed its check is marked, and the `RECEIVE` completes. -/
theorem step_ackReceived {y : Sync} {h : Header} {p : Option (List Byte)}
    (check : syncCheck y = some (.done (.frame h p))) (isAck : h.ptype = 0x00) :
    step (s.inFlight (.receive (.sync y))) =
      .next ((s.markId h.mid false (failFlag h.flags)).complete .ok (rxResult 1 h false)) := by
  refine step_receiveDone configured noTurns (r := .ack h) (g := .receive (.sync y)) ?_
  simp only [cycleStep, cycleSync, check, cycleChecked, dispatchFrame, if_pos isAck, State.markId_inFlight]

/-- R213: a normal frame that has passed its check goes to the handler. -/
theorem step_frameDispatched (o : CycleOwner) {y : Sync} {h : Header} {p : Option (List Byte)}
    (check : syncCheck y = some (.done (.frame h p))) (normal : h.ptype ≠ 0x00) :
    step (s.inFlight (o.flight (.sync y))) = .next (s.inFlight (o.flight (.create h p))) := by
  refine step_cycleMore configured noTurns o (g := o.flight (.sync y)) ?_
  simp only [cycleStep, cycleSync, check, cycleChecked, dispatchFrame, if_neg normal]

/-- R213: a packet that is created is processed. -/
theorem step_created (o : CycleOwner) {answers : List HdAnswer} (ready : s.handler.answers = .ok :: answers)
    (h : Header) (p : Option (List Byte)) :
    step (s.inFlight (o.flight (.create h p))) =
      .next ((s.afterAsks [.create h.pv h.ptype h.ver h.flags] answers).inFlight (o.flight (.process h p))) :=
  step_cycleMore configured noTurns o (cycleCreate_ok (s := s.inFlight _) ready h p)

/-- R214, R215: the ack response is accepted, and the `RECEIVE` completes. -/
theorem step_acknowledged {wr : List WrAnswer} (answers : s.chan.wr = .ok :: wr) (h : Header) (failed : Bool) :
    step (s.inFlight (.receive (.ackWrite h failed))) =
      .next (completeReceive (dispatched h failed true) (s.afterWrite .ok (ackFrame s.cfg h.mid failed) wr)) :=
  step_receiveDone configured noTurns (cycleAckWrite_ok (s := s.inFlight _) answers h failed)

/-- R214, R215: from the handler's last answer for a frame, the ack response where it asked for one, and the
completion. -/
theorem runsTo_handled {c : RxCycle} {t : State} (same : t.cfg = s.cfg ∧ t.turns = s.turns) {h : Header}
    {failed : Bool} {g : Flight}
    (last : cycleStep c (s.inFlight (.receive c)) = afterHandler h failed (t.inFlight g)) {wr : List WrAnswer}
    (writes : t.chan.wr = (if h.flags.getLsbD 0 then [.ok] else []) ++ wr) :
    RunsTo (1 + if h.flags.getLsbD 0 then 1 else 0) (s.inFlight (.receive c))
      ((t.afterAck h failed wr).complete (if failed then .processingError else .ok)
        (rxResult 2 h (h.flags.getLsbD 0))) := by
  obtain ⟨sameCfg, sameTurns⟩ := same
  rw [afterHandler, ackRequested_eq_bit] at last
  cases asks : h.flags.getLsbD 0 with
  | false =>
    rw [asks] at last writes
    rw [State.afterAck_notAsked (wr := wr) asks writes, ← completeReceive_dispatched]
    exact runsTo_one (step_receiveDone configured noTurns last)
  | true =>
    rw [asks] at last writes
    rw [State.afterAck_asked asks, ← completeReceive_dispatched]
    exact runsTo_two (step_cycleMore configured noTurns .receive last)
      (step_acknowledged (by rwa [sameCfg]) (by rwa [sameTurns]) writes h failed)

/-- R213: a packet that is not created is not processed. -/
theorem runsTo_notCreated {answers : List HdAnswer} (ready : s.handler.answers = .fail :: answers) {h : Header}
    {wr : List WrAnswer} (writes : s.chan.wr = (if h.flags.getLsbD 0 then [.ok] else []) ++ wr)
    (p : Option (List Byte)) :
    RunsTo (1 + if h.flags.getLsbD 0 then 1 else 0) (s.inFlight (.receive (.create h p)))
      (((s.afterAsks [.create h.pv h.ptype h.ver h.flags] answers).afterAck h true wr).complete .processingError
        (rxResult 2 h (h.flags.getLsbD 0))) :=
  runsTo_handled (c := .create h p) (t := s.afterAsks _ answers) configured noTurns ⟨rfl, rfl⟩
    (cycleCreate_fail (s := s.inFlight _) ready h p) writes

/-- R213: the answer to `Process` decides. -/
theorem runsTo_processed {a : HdAnswer} {answers : List HdAnswer} (ready : s.handler.answers = a :: answers)
    {h : Header} {wr : List WrAnswer} (writes : s.chan.wr = (if h.flags.getLsbD 0 then [.ok] else []) ++ wr)
    (p : Option (List Byte)) :
    RunsTo (1 + if h.flags.getLsbD 0 then 1 else 0) (s.inFlight (.receive (.process h p)))
      (((s.afterAsks [.process p] answers).afterAck h (a != .ok) wr).complete
        (if a != .ok then .processingError else .ok) (rxResult 2 h (h.flags.getLsbD 0))) :=
  runsTo_handled (c := .process h p) (t := s.afterAsks _ answers) configured noTurns ⟨rfl, rfl⟩
    (cycleProcess_of_answers (s := s.inFlight _) ready h p) writes

/-- R213 to R215: a normal frame, from its dispatch to the completion. -/
theorem runsTo_dispatched {h : Header} {process : Option HdAnswer} {answers : List HdAnswer} {wr : List WrAnswer}
    (ready : s.handler.answers = handlerAnswers process ++ answers)
    (writes : s.chan.wr = (if h.flags.getLsbD 0 then [.ok] else []) ++ wr) (p : Option (List Byte)) :
    RunsTo ((handlerAnswers process).length + if h.flags.getLsbD 0 then 1 else 0)
      (s.inFlight (.receive (.create h p)))
      (((s.afterAsks (handlerRequests h p process) answers).afterAck h (process != some .ok) wr).complete
        (if process != some .ok then .processingError else .ok) (rxResult 2 h (h.flags.getLsbD 0))) := by
  cases process with
  | none => exact runsTo_notCreated configured noTurns ready writes p
  | some a =>
    have created := step_created configured noTurns .receive ready h p
    have run := runsTo_succ created (runsTo_processed (s := s.afterAsks _ _) configured noTurns rfl writes p)
    rw [State.afterAsks_afterAsks, Nat.add_right_comm] at run
    exact run

end

/-- Settles O45: the run up to the check that delivers the frame (`runsTo_validFrame`), and its mark. -/
theorem receiveAppliesAck : Obligations.ReceiveAppliesAck := by
  intro s h p rx ready valid isAck stream
  obtain ⟨configured, noTurns, -, -⟩ := ready
  obtain ⟨n, y, steps, check, received⟩ := runsTo_validFrame configured noTurns .receive valid stream
  have marked := step_ackReceived (s := s.afterReads (13 + p.length) rx) configured noTurns check isAck
  rw [State.markId_afterReads, failFlag_eq_bit] at marked
  rw [steps]
  exact ⟨_, rfl, runsTo_trans received (runsTo_one marked)⟩

theorem dispatched_code (failed : Bool) :
    (if failed then Status.processingError else .ok).code = if failed then 4 else 0 := by
  cases failed <;> rfl

/-- Settles O46: the run up to the check that delivers the frame (`runsTo_validFrame`), and its dispatch
(`runsTo_dispatched`). -/
theorem receiveDispatchesFrame : Obligations.ReceiveDispatchesFrame := by
  intro s hb p rx process answers wr h ready valid normal stream asks writes failed ack
  obtain ⟨configured, noTurns, -, -⟩ := ready
  obtain ⟨n, y, steps, check, received⟩ := runsTo_validFrame configured noTurns .receive valid stream
  have dispatch := step_frameDispatched (s := s.afterReads (13 + p.length) rx) configured noTurns .receive check normal
  have completed := runsTo_dispatched (s := s.afterReads (13 + p.length) rx) (h := h) (process := process)
    configured noTurns asks writes (if p = [] then none else some p)
  have run := runsTo_trans (runsTo_trans received (runsTo_one dispatch)) completed
  rw [← Nat.add_assoc, ← steps] at run
  rw [← dispatched_code, List.append_assoc (s.requests ++ _) [_]]
  cases process <;> exact ⟨_, rfl, run⟩

end Sys2Proof.Machine
end

section
/-! The acknowledgement-window tracker (45_tracker.md R241 to R253): where an id stands in the window, what an
allocation and a mark do to it, and the tracker commands. -/

namespace Sys2Proof.Machine

namespace State

/-! ### Distance, window and position (R241) -/

theorem dist_eq (s : State) (m : Byte) : s.dist m = (s.trkCounter.toNat + 256 - m.toNat) % 256 := by
  rw [dist, BitVec.toNat_sub]
  omega

theorem dist_injective (s : State) {m m' : Byte} (same : s.dist m = s.dist m') : m = m' :=
  sub_right_inj.mp (BitVec.eq_of_toNat_eq same)

theorem dist_windowId (s : State) {p : Nat} (within : p < s.cfg.w.width) : s.dist (s.windowId p) = p + 1 := by
  have bound := (width_pos s.cfg.w).2
  rw [dist, windowId, sub_sub_cancel, BitVec.toNat_ofNat]
  omega

theorem inWindow_eq_false_iff (s : State) (m : Byte) :
    s.inWindow m = false ↔ ¬ (1 ≤ s.dist m ∧ s.dist m ≤ s.cfg.w.width) := by
  rw [← inWindow_iff, Bool.not_eq_true]

theorem dist_eq_pos_succ {s : State} {m : Byte} (inside : s.inWindow m = true) : s.dist m = s.pos m + 1 := by
  have ⟨first, _⟩ := (inWindow_iff s m).mp inside
  exact (Nat.sub_add_cancel first).symm

section
variable {s : State} {m : Byte} {p : Nat}

theorem pos_of_dist (distance : s.dist m = p + 1) : s.pos m = p := by
  rw [pos, distance, Nat.add_sub_cancel]

theorem inWindow_of_dist (distance : s.dist m = p + 1) (within : p < s.cfg.w.width) : s.inWindow m = true := by
  rw [inWindow_iff, distance]
  exact ⟨Nat.succ_pos p, within⟩

/-- R244, R245: both queries read their mask at the position of the id. -/
theorem query_of_dist (distance : s.dist m = p + 1) (within : p < s.cfg.w.width) :
    s.queryPending m = .bit (s.trkPending.getLsbD p) ∧ s.queryFailed m = .bit (s.trkFailed.getLsbD p) := by
  have inside := inWindow_of_dist distance within
  rw [queryPending_inWindow inside, queryFailed_inWindow inside, pos_of_dist distance]
  exact ⟨rfl, rfl⟩

theorem query_outOfWindow (outside : s.inWindow m = false) :
    s.queryPending m = .outOfWindow ∧ s.queryFailed m = .outOfWindow := by
  simp [queryPending, queryFailed, outside]

end

/-! ### A mark (R243) -/

/-- R243: a mark writes the two masks and nothing else. -/
theorem markId_eq (s : State) (m : Byte) (p f : Bool) :
    s.markId m p f =
      { s with trkPending := (s.markId m p f).trkPending, trkFailed := (s.markId m p f).trkFailed } := by
  unfold markId
  split <;> rfl

theorem markId_outOfWindow {s : State} {m : Byte} (outside : s.inWindow m = false) (p f : Bool) :
    s.markId m p f = s := by
  simp [markId, outside]

/-- R243: in the window a mark replaces the bit of the id's position in each mask. -/
theorem markId_bit {s : State} {m : Byte} (inside : s.inWindow m = true) (p f : Bool) (i : Nat) :
    (s.markId m p f).trkPending.getLsbD i = (if i = s.pos m then p else s.trkPending.getLsbD i) ∧
    (s.markId m p f).trkFailed.getLsbD i = (if i = s.pos m then f else s.trkFailed.getLsbD i) := by
  have bound : s.pos m < 64 := Nat.lt_of_lt_of_le (pos_lt_width inside) (width_pos s.cfg.w).2
  rw [markId_trkPending, markId_trkFailed, if_pos inside, if_pos inside, setMaskBit_bit _ _ _ bound,
    setMaskBit_bit _ _ _ bound]
  exact ⟨rfl, rfl⟩

/-- Two ids of the window share no position, so a mark of one is not read by the queries of another. -/
theorem markId_query_of_ne {s : State} {m m' : Byte} (inside : s.inWindow m = true) (other : m' ≠ m) (p f : Bool) :
    (s.markId m p f).queryPending m' = s.queryPending m' ∧ (s.markId m p f).queryFailed m' = s.queryFailed m' := by
  by_cases inside' : s.inWindow m' = true
  · have apart : s.pos m' ≠ s.pos m := fun same =>
      other (s.dist_injective (by rw [dist_eq_pos_succ inside', dist_eq_pos_succ inside, same]))
    obtain ⟨pending, failed⟩ := markId_bit inside p f (s.pos m')
    rw [if_neg apart] at pending failed
    simp [queryPending, queryFailed, pending, failed]
  · simp [queryPending, queryFailed, inside']

/-! ### An allocation (R242) -/

/-- R240, R241: an allocation moves every id one further from the counter. -/
theorem allocId_dist (s : State) (m : Byte) : s.allocId.dist m = (s.dist m + 1) % 256 := by
  rw [dist, dist, allocId_trkCounter, add_sub_right_comm, BitVec.toNat_add]
  rfl

theorem allocId_trkPending_bit (s : State) (i : Nat) :
    s.allocId.trkPending.getLsbD i = (i == 0 || (decide (i < s.cfg.w.width) && s.trkPending.getLsbD (i - 1))) := by
  rw [allocId_trkPending, BitVec.getLsbD_or, shiftMask_bit]
  cases i <;> simp [BitVec.getLsbD_one]

theorem allocId_trkFailed_bit (s : State) (i : Nat) :
    s.allocId.trkFailed.getLsbD i = (i != 0 && decide (i < s.cfg.w.width) && s.trkFailed.getLsbD (i - 1)) := by
  rw [allocId_trkFailed, shiftMask_bit]
  cases i <;> simp

section
variable {s : State} {m : Byte} {p : Nat} (distance : s.dist m = p + 1)
include distance

theorem allocId_dist_of_dist (within : p < s.cfg.w.width) : s.allocId.dist m = p + 2 := by
  have bound := (width_pos s.cfg.w).2
  rw [allocId_dist, distance]
  omega

/-- R242: the bits of an id move with it to the next position. -/
theorem allocId_query_of_dist (stays : p + 1 < s.cfg.w.width) :
    s.allocId.queryPending m = s.queryPending m ∧ s.allocId.queryFailed m = s.queryFailed m := by
  have within : p < s.cfg.w.width := Nat.lt_of_succ_lt stays
  obtain ⟨pending, failed⟩ := query_of_dist distance within
  obtain ⟨pending', failed'⟩ := query_of_dist (s := s.allocId) (allocId_dist_of_dist distance within) stays
  rw [pending, failed, pending', failed', allocId_trkPending_bit, allocId_trkFailed_bit]
  simp [stays]

/-- R242: the id at position `W - 1` leaves the window. -/
theorem allocId_evicts (last : p + 1 = s.cfg.w.width) : s.allocId.inWindow m = false := by
  have within : p < s.cfg.w.width := Nat.lt_of_succ_le last.le
  rw [inWindow_eq_false_iff, allocId_dist_of_dist distance within, allocId_cfg]
  omega

end

/-! ### Allocations one after another (R250, R251) -/

theorem allocIds_succ (k : Nat) (s : State) : allocIds (k + 1) s = (allocIds k s).allocId := by
  induction k generalizing s with
  | zero => rfl
  | succ k ih => exact ih s.allocId

@[simp] theorem allocIds_cfg (k : Nat) (s : State) : (allocIds k s).cfg = s.cfg := by
  induction k with
  | zero => rfl
  | succ k ih => rw [allocIds_succ, allocId_cfg, ih]

theorem allocIds_trkCounter (k : Nat) (s : State) :
    (allocIds k s).trkCounter = s.trkCounter + BitVec.ofNat 8 k := by
  induction k with
  | zero => exact (BitVec.add_zero _).symm
  | succ k ih =>
    rw [allocIds_succ, allocId_trkCounter, ih, BitVec.add_assoc]
    exact congrArg _ (BitVec.ofNat_add k 1).symm

/-- The id allocated in `s`, `k` allocations later. -/
theorem allocIds_dist (s : State) (k : Nat) : (allocIds k s.allocId).dist s.trkCounter = (k + 1) % 256 := by
  induction k with
  | zero => exact dist_last rfl
  | succ k ih => rw [allocIds_succ, allocId_dist, ih, Nat.mod_add_mod]

theorem allocIds_dist_within (s : State) {k : Nat} (within : k < s.cfg.w.width) :
    (allocIds k s.allocId).dist s.trkCounter = k + 1 := by
  have bound := (width_pos s.cfg.w).2
  rw [allocIds_dist]
  omega

/-- R242, R250: the id allocated in `s` stays pending and not failed while it is in the window. -/
theorem allocIds_query (s : State) {k : Nat} (within : k < s.cfg.w.width) :
    (allocIds k s.allocId).queryPending s.trkCounter = .bit true ∧
    (allocIds k s.allocId).queryFailed s.trkCounter = .bit false := by
  induction k with
  | zero => exact s.allocId_query
  | succ k ih =>
    have before : k < s.cfg.w.width := Nat.lt_of_succ_lt within
    obtain ⟨pending, failed⟩ :=
      allocId_query_of_dist (s.allocIds_dist_within before) (by rwa [allocIds_cfg, allocId_cfg])
    rw [allocIds_succ, pending, failed]
    exact ih before

/-- R250: from the `W`-th allocation after its own on the id is out of the window, until the counter comes round. -/
theorem allocIds_evicted (s : State) {k : Nat} (evicted : s.cfg.w.width ≤ k) (bound : k ≤ 255) :
    (allocIds k s.allocId).inWindow s.trkCounter = false := by
  rw [inWindow_eq_false_iff, allocIds_dist, allocIds_cfg, allocId_cfg]
  omega

/-- R251: within 256 allocations an id is returned by the one that its distance from the counter names. -/
theorem allocIds_trkCounter_eq_iff (s : State) (m : Byte) {k : Nat} (bound : k < 256) :
    (allocIds k s).trkCounter = m ↔ k = (m - s.trkCounter).toNat := by
  rw [allocIds_trkCounter, BitVec.add_comm, ← BitVec.eq_sub_iff_add_eq, ← BitVec.toNat_inj, BitVec.toNat_ofNat,
    Nat.mod_eq_of_lt bound]

/-- R252: right after reset the ids in the window are `256 - W .. 255`. -/
theorem resetWith_inWindow_iff (cfg : Config) (m : Byte) :
    (resetWith cfg).inWindow m = true ↔ 256 - cfg.w.width ≤ m.toNat := by
  have bound := width_pos cfg.w
  have counter : (resetWith cfg).trkCounter.toNat = 0 := rfl
  have same : (resetWith cfg).cfg = cfg := rfl
  rw [inWindow_iff, dist_eq, counter, same]
  omega

/-! ### The answer of a query as a completion (R248, R249) -/

theorem completeQuery_bit (s : State) (b : Bool) : s.completeQuery (.bit b) = s.complete .ok (if b then 1 else 0) := by
  cases b <;> rfl

theorem completeQuery_outOfWindow (s : State) : s.completeQuery .outOfWindow = s.complete .timeout 0 := rfl

/-- R248, R249: how a query completes its command, `v` the mask it reads. -/
theorem completeQuery_ite (s : State) (m : Byte) (v : Long) :
    s.completeQuery (if s.inWindow m then .bit (v.getLsbD (s.pos m)) else .outOfWindow) =
      if 1 ≤ s.dist m ∧ s.dist m ≤ s.cfg.w.width then s.complete .ok (if v.getLsbD (s.dist m - 1) then 1 else 0)
      else s.complete .timeout 0 := by
  by_cases inside : s.inWindow m = true
  · rw [if_pos inside, if_pos ((inWindow_iff s m).mp inside), completeQuery_bit, pos]
  · rw [if_neg inside, if_neg (fun within => inside ((inWindow_iff s m).mpr within)), completeQuery_outOfWindow]

end State

/-! ### The statements -/

/-- R71, R72: the two one-bit operands of `TRK_MARK` are bit 0 of their bytes. -/
theorem decode_trkMark (w : Word) (h : opField w = 0x31) :
    decode w = .instr (.trkMark (w.extractLsb' 16 8) (w.getLsbD 8) (w.getLsbD 0)) := by
  rw [decode_of_opField (o := .trkMark) h]
  simp [Opcode.command, bitOperand, aField, bField, cField]

/-- Settles O20: a mark writes the two masks only, at the bit of the id's position in each, or nothing outside
the window. -/
theorem trkMarkMarks : Obligations.TrkMarkMarks := by
  refine ⟨decode_trkMark, fun m p f s => ?_⟩
  simp only [← State.dist_eq]
  refine ⟨(s.markId m p f).trkPending, (s.markId m p f).trkFailed, ?_, fun within i _ => ?_, fun outside => ?_⟩
  · exact congrArg (fun t : State => Host.Outcome.next (t.complete .ok 0)) (s.markId_eq m p f)
  · have inside := (State.inWindow_iff s m).mpr within
    have position : i + 1 = s.dist m ↔ i = s.pos m := by
      rw [State.dist_eq_pos_succ inside, Nat.add_right_cancel_iff]
    simpa only [position] using State.markId_bit inside p f i
  · rw [State.markId_outOfWindow ((State.inWindow_eq_false_iff s m).mpr outside)]
    exact ⟨rfl, rfl⟩

/-- Settles O22: the id last allocated (`State.allocId_query`), and every other by its distance. -/
theorem allocationKeepsTheMapping : Obligations.AllocationKeepsTheMapping := by
  intro s m
  obtain ⟨pending, failed⟩ := s.allocId_query
  refine ⟨pending, failed, State.pos_last rfl, fun inside stays => ?_, fun inside last => ?_⟩
  · have distance := State.dist_eq_pos_succ inside
    exact ⟨State.pos_of_dist (State.allocId_dist_of_dist distance (State.pos_lt_width inside)),
      State.allocId_query_of_dist distance stays⟩
  · exact (State.query_outOfWindow (State.allocId_evicts (State.dist_eq_pos_succ inside) last)).1

/-- Settles O23: a mark is read back at the position of its id (`State.markId_query`), which no other id of the window
has (`State.markId_query_of_ne`). -/
theorem markIsWhatQueriesAnswer : Obligations.MarkIsWhatQueriesAnswer := by
  refine fun s m p f => ⟨fun inside => ?_, fun outside => ?_⟩
  · obtain ⟨pending, failed⟩ := State.markId_query p f inside
    exact ⟨pending, failed, fun m' other => State.markId_query_of_ne inside other p f⟩
  · exact ⟨State.markId_outOfWindow outside p f, State.query_outOfWindow outside⟩

/-- Settles O24: `k` allocations after its own an id is at distance `k + 1`. -/
theorem laggingIdIsEvicted : Obligations.LaggingIdIsEvicted := by
  refine fun s k => ⟨fun within => ?_, fun evicted bound => ?_⟩
  · obtain ⟨pending, failed⟩ := s.allocIds_query within
    exact ⟨pending, failed, State.pos_of_dist (s.allocIds_dist_within within)⟩
  · have outside := s.allocIds_evicted evicted bound
    obtain ⟨pending, failed⟩ := State.query_outOfWindow outside
    refine ⟨pending, failed, ?_, ?_, State.markId_outOfWindow outside⟩
    · exact congrArg (fun q => Host.Outcome.next (State.completeQuery _ q)) pending
    · exact congrArg (fun q => Host.Outcome.next (State.completeQuery _ q)) failed

/-- Settles O25: the counter after `k` allocations is `k` further (`State.allocIds_trkCounter`). -/
theorem allocationsWrapWithoutGap : Obligations.AllocationsWrapWithoutGap := by
  refine fun s => ⟨?_, fun k => ?_, fun m => ?_, fun p q hp hq same => ?_⟩
  · rw [State.allocIds_trkCounter]
    exact BitVec.add_zero _
  · rw [State.allocIds_succ, State.allocId_trkCounter]
  · have bound : (m - s.trkCounter).toNat < 256 := (m - s.trkCounter).isLt
    exact ⟨_, bound, (s.allocIds_trkCounter_eq_iff m bound).mpr rfl,
      fun j hj returned => (s.allocIds_trkCounter_eq_iff m hj).mp returned⟩
  · have distances := congrArg s.dist same
    rw [s.dist_windowId hp, s.dist_windowId hq] at distances
    exact Nat.add_right_cancel distances

/-- Settles O26: an id of the window is at its position's distance, and after reset the masks are zero. -/
theorem windowQueriesSucceed : Obligations.WindowQueriesSucceed := by
  refine ⟨fun s p within => State.query_of_dist (s.dist_windowId within) within, fun cfg m => ?_⟩
  have pending : (State.resetWith cfg).trkPending = 0 := rfl
  have failed : (State.resetWith cfg).trkFailed = 0 := rfl
  simp only [← State.resetWith_inWindow_iff]
  simp [State.queryPending, State.queryFailed, pending, failed]

/-- Settles O19: the masks bit by bit, and one step further from the counter distance `W` is out of the window. -/
theorem trkAllocAllocates : Obligations.TrkAllocAllocates := by
  refine ⟨fun w h => decode_of_opField (o := .trkAlloc) h, by decide, fun s => ?_, fun s t m ran distance => ?_⟩
  · exact ⟨s.allocId.trkPending, s.allocId.trkFailed, rfl,
      fun i _ => ⟨s.allocId_trkPending_bit i, s.allocId_trkFailed_bit i⟩⟩
  · cases ran
    have bound := (width_pos s.cfg.w).2
    rw [← State.dist_eq] at distance
    rw [← State.dist_eq]
    show ¬ s.allocId.dist m ≤ s.cfg.w.width
    rw [State.allocId_dist, distance]
    omega

/-- Settles O21: both queries complete in the same way, each with its mask (`State.completeQuery_ite`). -/
theorem trackerQueriesAnswer : Obligations.TrackerQueriesAnswer := by
  refine ⟨fun w h => decode_of_opField (o := .trkQpend) h, fun w h => decode_of_opField (o := .trkQfail) h,
    fun m s => ?_⟩
  simp only [← State.dist_eq]
  exact ⟨congrArg Host.Outcome.next (s.completeQuery_ite m s.trkPending),
    congrArg Host.Outcome.next (s.completeQuery_ite m s.trkFailed)⟩

end Sys2Proof.Machine
end

section
/-! Where the counter advances and where the `ALLOC` phase begins (45_tracker.md R240, 43_transmit.md R183). -/

namespace Sys2Proof.Machine

@[simp] theorem State.completeQuery_trkCounter (s : State) (q : QueryAnswer) :
    (s.completeQuery q).trkCounter = s.trkCounter := by
  cases q <;> rfl

@[simp] theorem State.completeQuery_flight (s : State) (q : QueryAnswer) : (s.completeQuery q).flight = none := by
  cases q <;> rfl

/-- R240: of the commands, when accepted, only `TRK_ALLOC` writes the counter. -/
theorem exec_trkCounter {i : Instr} {s t : State} (ran : exec i s = .next t) :
    t.trkCounter = s.trkCounter ∨ (t.trkCounter = s.trkCounter + 1 ∧ i = .trkAlloc) := by
  cases i with
  | trkAlloc => cases ran; exact .inr ⟨rfl, rfl⟩
  | nop => cases ran; exact .inl rfl
  | crcInit => cases ran; exact .inl rfl
  | crcByte b => cases ran; exact .inl rfl
  | txbClear => cases ran; exact .inl rfl
  | txbPush b =>
    simp only [exec, execTxbPush] at ran
    split at ran <;> cases ran <;> exact .inl rfl
  | send ptype ver flags =>
    simp only [exec, execSend] at ran
    split at ran <;> cases ran <;> exact .inl rfl
  | receive => cases ran; exact .inl rfl
  | trkMark m p f => cases ran; exact .inl (by simp)
  | trkQpend m => cases ran; exact .inl (by simp)
  | trkQfail m => cases ran; exact .inl (by simp)
  | regRead idx =>
    simp only [exec, execRegRead] at ran
    split at ran <;> cases ran <;> exact .inl rfl

/-- R182, R210: what a command leaves in flight when it is accepted. -/
theorem exec_flight {i : Instr} {s t : State} (ran : exec i s = .next t) :
    t.flight = none ∨ t.flight = some (.receive freshCycle) ∨
    ∃ ptype ver flags, i = .send ptype ver flags ∧ ptype ≠ 0x00 ∧
      t.flight = some (.sendAlloc ptype ver flags s.txb) := by
  cases i with
  | send ptype ver flags =>
    simp only [exec, execSend] at ran
    split at ran
    · cases ran; exact .inl rfl
    · cases ran; exact .inr (.inr ⟨ptype, ver, flags, rfl, ‹_›, rfl⟩)
  | receive => cases ran; exact .inr (.inl rfl)
  | nop => cases ran; exact .inl rfl
  | crcInit => cases ran; exact .inl rfl
  | crcByte b => cases ran; exact .inl rfl
  | txbClear => cases ran; exact .inl rfl
  | txbPush b =>
    simp only [exec, execTxbPush] at ran
    split at ran <;> cases ran <;> exact .inl rfl
  | trkAlloc => cases ran; exact .inl rfl
  | trkMark m p f => cases ran; exact .inl rfl
  | trkQpend m => cases ran; exact .inl (by simp)
  | trkQfail m => cases ran; exact .inl (by simp)
  | regRead idx =>
    simp only [exec, execRegRead] at ran
    split at ran <;> cases ran <;> exact .inl rfl

/-- R240: of the steps of a command in flight only `ALLOC` writes the counter. -/
theorem TrackerCan.counter {s t : State} (can : TrackerCan s t) :
    t.trkCounter = s.trkCounter ∨
    (t.trkCounter = s.trkCounter + 1 ∧ ∃ ptype ver flags p, s.flight = some (.sendAlloc ptype ver flags p)) := by
  cases can with
  | alloc phase counter => exact .inr ⟨counter, _, _, _, _, phase⟩
  | ack _ _ counter => exact .inl counter
  | same _ _ counter => exact .inl counter

section
variable (ptype ver flags : Byte) (p : List Byte)

theorem sendOnceStep_notAlloc {f : SendFrame} {w : WritePhase} {s : State} (flying : s.flight = some (.sendOnce f w)) :
    (sendOnceStep f w s).flight ≠ some (.sendAlloc ptype ver flags p) := by
  unfold sendOnceStep
  split
  · rw [flying]
    exact nofun
  all_goals exact nofun

theorem receiveStep_notAlloc {c : RxCycle} {s : State} (flying : s.flight = some (.receive c)) :
    (receiveStep c s).flight ≠ some (.sendAlloc ptype ver flags p) := by
  unfold receiveStep
  cases cycleStep c s with
  | hold => rw [flying]; exact nofun
  | more c' t => exact nofun
  | done r t => cases r <;> exact nofun

theorem AttemptGoesOn.notAlloc {f : SendFrame} {n last : Nat} {flight : Option Flight}
    (goesOn : AttemptGoesOn f n last flight) : flight ≠ some (.sendAlloc ptype ver flags p) := by
  rcases goesOn with rfl | ⟨_, _, rfl, _⟩ <;> exact nofun

/-- R183: a step of the command in flight leaves the `ALLOC` phase, and none enters it. -/
theorem advance_notAlloc (s : State) : (advance s).flight ≠ some (.sendAlloc ptype ver flags p) := by
  cases flying : s.flight with
  | none => simp [advance, flying]
  | some f =>
    rw [advance_of_flight flying]
    cases f with
    | sendAlloc _ _ flags' _ =>
      show some (firstFlight flags' _) ≠ _
      unfold firstFlight
      split <;> exact nofun
    | sendOnce f w => exact sendOnceStep_notAlloc ptype ver flags p flying
    | sendAcked f n phase => exact (sendAckedStep_goesOn f n flying).notAlloc ptype ver flags p
    | receive c => exact receiveStep_notAlloc ptype ver flags p flying

end

/-- R240: the step in which the counter advances. -/
theorem StepIs.counter {s t : State} (is : StepIs s t) (notReset : s.nextTurn ≠ .host .reset) :
    t.trkCounter = s.trkCounter ∨
    (t.trkCounter = s.trkCounter + 1 ∧ s.nextTurn = .block ∧
      ((s.busy = false ∧ ∃ w rest, s.host.port = w :: rest ∧ decode w = .instr .trkAlloc) ∨
        (s.busy = true ∧ ∃ ptype ver flags p, s.flight = some (.sendAlloc ptype ver flags p)))) := by
  cases is with
  | reset turn => exact absurd turn notReset
  | host _ other => exact .inl (hostStep_same _ _ other).trkCounter
  | chan => exact .inl (chanStep_same _ _).trkCounter
  | handler => exact .inl (handlerStep_same _ _).trkCounter
  | busy turn isBusy =>
    rcases (advance_can s.passTurn).2.counter with same | ⟨counter, phase⟩
    · exact .inl same
    · exact .inr ⟨counter, turn, .inr ⟨isBusy, phase⟩⟩
  | idle => exact .inl rfl
  | command turn isIdle offer decoded ran =>
    rcases exec_trkCounter ran with same | ⟨counter, rfl⟩
    · exact .inl same
    · exact .inr ⟨counter, turn, .inl ⟨isIdle, _, _, offer, decoded⟩⟩
  | reserved => exact .inl rfl

/-- R183: the step that enters the `ALLOC` phase. -/
theorem StepIs.entersAlloc {s t : State} (is : StepIs s t) {ptype ver flags : Byte} {p : List Byte}
    (phase : t.flight = some (.sendAlloc ptype ver flags p)) :
    s.flight = some (.sendAlloc ptype ver flags p) ∨
    (s.busy = false ∧ ptype ≠ 0x00 ∧ p = s.txb ∧
      ∃ w rest, s.host.port = w :: rest ∧ decode w = .instr (.send ptype ver flags)) := by
  cases is with
  | reset => cases phase
  | host _ other => exact .inl ((hostStep_same _ s.passTurn other).flight.symm.trans phase)
  | chan => exact .inl ((chanStep_same _ s.passTurn).flight.symm.trans phase)
  | handler => exact .inl ((handlerStep_same _ s.passTurn).flight.symm.trans phase)
  | busy => exact absurd phase (advance_notAlloc ptype ver flags p s.passTurn)
  | idle => exact .inl phase
  | command _ isIdle offer decoded ran =>
    rcases exec_flight ran with none | fresh | ⟨_, _, _, rfl, normal, alloc⟩
    · cases none.symm.trans phase
    · cases fresh.symm.trans phase
    · cases alloc.symm.trans phase
      exact .inr ⟨isIdle, normal, rfl, _, _, offer, decoded⟩
  | reserved => cases phase

/-- Settles O53: by the kind of the step, for the counter and for the phase. -/
theorem counterAdvancesByAllocationOnly : Obligations.CounterAdvancesByAllocationOnly := by
  intro s t stepped
  obtain ⟨-, is⟩ := step_is stepped
  exact ⟨is.counter, fun _ _ _ _ => is.entersAlloc⟩

end Sys2Proof.Machine
end

section
/-! `NOP`, and what `REG_READ` answers at each index (46_control.md R270 to R272). -/

namespace Sys2Proof.Machine

/-- Settles O12: the opcode selects `NOP`, whose meaning is the completion. -/
theorem nopDoesNothing : Obligations.NopDoesNothing :=
  ⟨fun _ opcode => decode_of_opField (o := .nop) opcode, by decide, fun _ => rfl⟩

/-- R271: a defined index completes with its value. -/
theorem exec_regRead_of_some {idx : Byte} {s : State} {v : Long} (defined : regValue idx s = some v) :
    exec (.regRead idx) s = .next (s.complete .ok v) := by
  simp [exec, execRegRead, defined]

/-- R271: an undefined index completes with `BAD_COMMAND`. -/
theorem exec_regRead_of_none {idx : Byte} {s : State} (undefined : regValue idx s = none) :
    exec (.regRead idx) s = .next (s.complete .badCommand 0) := by
  simp [exec, execRegRead, undefined]

/-- R272: the indices from `0x09` on are undefined. -/
theorem regValue_eq_none {idx : Byte} (above : 9 ≤ idx.toNat) (s : State) : regValue idx s = none := by
  unfold regValue
  split
  case h_10 => rfl
  all_goals omega

/-- R272: the two values of index 6. -/
theorem long_width (w : Window) : long w.width = match w with | .w32 => 32 | .w64 => 64 := by
  cases w <;> rfl

/-- R134: widened to the result register, a joined value keeps its bytes in place: the high byte ends at bit 15. -/
theorem zext64Half_join16 (lo hi : Byte) :
    zext64Half (join16 lo hi) = (hi.zeroExtend 64 <<< 8) ||| lo.zeroExtend 64 := by
  ext i
  by_cases within : i < 16
  · simp [zext64Half, join16, within]
  · have noHigh : hi.getLsbD (i - 8) = false := BitVec.getLsbD_of_ge hi (i - 8) (by omega)
    simp [zext64Half, join16, within, noHigh]

/-- Settles O13: the value of each defined index, of which the window size goes by its two values and the
synchronization pattern byte by byte; every other index is undefined (`regValue_eq_none`). -/
theorem regReadReadsEachRegister : Obligations.RegReadReadsEachRegister := by
  refine ⟨fun _ opcode => decode_of_opField (o := .regRead) opcode, fun s => ?_⟩
  have window : regValue 0x06 s = some (match s.cfg.w with | .w32 => 32 | .w64 => 64) :=
    congrArg some (long_width s.cfg.w)
  have pattern : regValue 0x08 s = some ((s.cfg.sync1.zeroExtend 64 <<< 8) ||| s.cfg.sync0.zeroExtend 64) :=
    congrArg some (zext64Half_join16 s.cfg.sync0 s.cfg.sync1)
  exact ⟨exec_regRead_of_some rfl, exec_regRead_of_some rfl, exec_regRead_of_some rfl, exec_regRead_of_some rfl,
    exec_regRead_of_some rfl, exec_regRead_of_some rfl, exec_regRead_of_some window, exec_regRead_of_some rfl,
    exec_regRead_of_some pattern, fun _ above => exec_regRead_of_none (regValue_eq_none above s)⟩

end Sys2Proof.Machine
end

section
/-! Reset, the outputs while a command is in flight, the requests that are not answered, and the ack response whose
write fails (60_exceptions.md R311, R320, 70_reset_and_hazards.md R330 to R338). -/

namespace Sys2Proof.Machine

/-! ### Reset (R330 to R332) -/

/-- R330: a block as after reset is not changed by another reset. -/
theorem State.resetWith_eq_blockReset (cfg : Config) : State.resetWith cfg = (State.resetWith cfg).blockReset := rfl

/-- Settles O3: each of the three is a state a reset leaves, of which the values are the fields' own. -/
theorem resetStateValues : Obligations.ResetStateValues := by
  intro s isReset
  obtain ⟨s', rfl⟩ : ∃ s', s = State.blockReset s' := by
    rcases isReset with rfl | ⟨cfg, rfl⟩ | reset
    · exact ⟨_, State.resetWith_eq_blockReset Config.vectors⟩
    · exact ⟨_, State.resetWith_eq_blockReset cfg⟩
    · exact reset
  exact ⟨rfl, rfl, rfl, rfl, rfl, rfl, rfl, rfl, rfl, rfl, rfl⟩

/-- Settles O4: a reset is a step of `HOST`, whatever the block has in flight. -/
theorem resetAbortsCommand : Obligations.ResetAbortsCommand := fun _ configured turn =>
  step_of_nextTurn configured turn

/-- Settles O5: the registers are clear, so what a reset leaves of them satisfies the invariant. -/
theorem resetSatisfiesInvariant : Obligations.ResetSatisfiesInvariant := by
  intro cfg admitted
  have clear : (State.resetWith cfg).RegistersOk :=
    ⟨admitted, Nat.zero_le _, BitVec.zero_and, BitVec.zero_and, Nat.zero_le _⟩
  rw [State.resetWith_eq_blockReset]
  exact clear.blockReset

/-! ### The outputs and the port while a command is in flight (R335, 10_state.md R26) -/

@[simp] theorem State.completeQuery_busy (s : State) (q : QueryAnswer) : (s.completeQuery q).busy = false := by
  cases q <;> rfl

/-- R335: a command that is accepted and stays in flight leaves the outputs of the one before it. -/
theorem exec_outputs {i : Instr} {s t : State} (ran : exec i s = .next t) (staysBusy : t.busy = true) :
    t.status = s.status ∧ t.result = s.result := by
  cases i with
  | send ptype ver flags =>
    simp only [exec, execSend] at ran
    split at ran
    · cases ran; cases staysBusy
    · cases ran; exact ⟨rfl, rfl⟩
  | receive => cases ran; exact ⟨rfl, rfl⟩
  | nop => cases ran; cases staysBusy
  | crcInit => cases ran; cases staysBusy
  | crcByte b => cases ran; cases staysBusy
  | txbClear => cases ran; cases staysBusy
  | txbPush b =>
    simp only [exec, execTxbPush] at ran
    split at ran <;> cases ran <;> cases staysBusy
  | trkAlloc => cases ran; cases staysBusy
  | trkMark m p f => cases ran; cases staysBusy
  | trkQpend m => cases ran; simp at staysBusy
  | trkQfail m => cases ran; simp at staysBusy
  | regRead idx =>
    simp only [exec, execRegRead] at ran
    split at ran <;> cases ran <;> cases staysBusy

/-- R26: of the steps of `HOST`, only the offer of a command changes the port. -/
theorem hostStep_port (m : HostMove) (s : State) :
    (hostStep m s).host.port = s.host.port ∨
    ∃ w, m = .offer w ∧ (hostStep m s).host.port = s.host.port ++ [w] := by
  cases m with
  | offer w => exact .inr ⟨w, rfl, rfl⟩
  | readCompletion => exact .inl (by rw [hostStep, readCompletion_eq])
  | reset => exact .inl rfl

/-- R335: a step after which `BUSY` is 1 leaves the outputs. -/
theorem StepIs.outputs {s t : State} (is : StepIs s t) (staysBusy : t.busy = true) :
    t.status = s.status ∧ t.result = s.result := by
  cases is with
  | reset => cases staysBusy
  | host _ notReset =>
    have same := hostStep_same _ s.passTurn notReset
    exact ⟨same.status, same.result⟩
  | chan => exact ⟨(chanStep_same _ s.passTurn).status, (chanStep_same _ s.passTurn).result⟩
  | handler => exact ⟨rfl, rfl⟩
  | busy => exact (advance_can s.passTurn).1.outputs staysBusy
  | idle => exact ⟨rfl, rfl⟩
  | command _ _ _ _ ran => exact (exec_outputs ran staysBusy :)
  | reserved => cases staysBusy

/-- R26: a busy block takes no command from the port, and one offered joins it at its end. -/
theorem StepIs.port {s t : State} (is : StepIs s t) (isBusy : s.busy = true) :
    t.host.port = s.host.port ∨ ∃ w, s.nextTurn = .host (.offer w) ∧ t.host.port = s.host.port ++ [w] := by
  cases is with
  | reset => exact .inl rfl
  | @host m turn =>
    rcases hostStep_port m s.passTurn with same | ⟨w, rfl, joined⟩
    · exact .inl same
    · exact .inr ⟨w, turn, joined⟩
  | @chan m => cases m <;> exact .inl rfl
  | handler => exact .inl rfl
  | busy => exact .inl (congrArg HostSide.port (advance_can s.passTurn).1.host)
  | idle => exact .inl rfl
  | command _ isIdle => cases isBusy.symm.trans isIdle
  | reserved _ isIdle => cases isBusy.symm.trans isIdle

/-- Settles O51: by the kind of the step, for the outputs and for the port. -/
theorem busyBlockKeepsStatusAndPort : Obligations.BusyBlockKeepsStatusAndPort := by
  intro s t stepped
  obtain ⟨-, is⟩ := step_is stepped
  exact ⟨is.outputs, is.port⟩

/-! ### A request that is not answered (20_memory.md R55, R56, 44_receive.md R218) -/

section
variable {s : State}

theorem cycleStep_sync_hold (stream : s.chan.rx = []) {y : Sync} (noCheck : syncCheck y = none) :
    cycleStep (.sync y) s = .hold := by
  simp only [cycleStep, cycleSync, noCheck, cycleRead, chanRead, stream]

theorem cycleStep_ackWrite_hold (answers : s.chan.wr = []) (h : Header) (failed : Bool) :
    cycleStep (.ackWrite h failed) s = .hold := by
  simp only [cycleStep, cycleAckWrite, chanWrite, answers]

theorem handlerAsk_none (answers : s.handler.answers = []) (r : Request) : handlerAsk r s = none := by
  simp only [handlerAsk, answers]

theorem cycleStep_create_hold (answers : s.handler.answers = []) (h : Header) (p : Option (List Byte)) :
    cycleStep (.create h p) s = .hold := by
  simp only [cycleStep, cycleCreate, handlerAsk_none answers]

theorem cycleStep_process_hold (answers : s.handler.answers = []) (h : Header) (p : Option (List Byte)) :
    cycleStep (.process h p) s = .hold := by
  simp only [cycleStep, cycleProcess, handlerAsk_none answers]

/-- A cycle that holds holds its command, in a `RECEIVE` and in the wait of a `SEND` (R211). -/
theorem flightStep_cycleHold {f : Flight} {c : RxCycle} (inCycle : f.inCycle c) (holds : cycleStep c s = .hold) :
    flightStep f s = s := by
  obtain rfl | ⟨fr, n, rfl⟩ := inCycle
  · simp only [flightStep, receiveStep, holds]
  · simp only [flightStep, sendAckedStep, waitReceive, holds]

/-- A frame write that is not answered holds its `SEND` (R57). -/
theorem WriteOwner.flightStep_hold (o : WriteOwner) (answers : s.chan.wr = []) (f : SendFrame) (p : WritePhase) :
    flightStep (o.flight f p) s = s := by
  cases o with
  | once => simp only [WriteOwner.flight, flightStep, sendOnceStep, writeStep_hold answers]
  | attempt n => exact attemptWrite_hold answers f n p

/-- R320: an idle block with nothing offered. -/
theorem step_idle (configured : s.cfg.wf = true) (turn : s.nextTurn = .block) (isIdle : s.busy = false)
    (empty : s.host.port = []) : step s = .next s.passTurn := by
  simp [step_of_nextTurn configured turn, turnStep, blockStep, isIdle, State.offered, empty]

end

/-- Settles O57: the idle block (`step_idle`), or the step of a command that holds, by the agent it asks. -/
theorem unansweredBlockHolds : Obligations.UnansweredBlockHolds := by
  intro s configured turn unanswered
  have held {f : Flight} (isBusy : s.busy = true) (flying : s.flight = some f)
      (holds : flightStep f s.passTurn = s.passTurn) : step s = .next s.passTurn := by
    rw [State.Runs.step_flight ⟨configured, turn, isBusy, flying⟩, holds]
  have heldCycle {f : Flight} {c : RxCycle} (isBusy : s.busy = true) (flying : s.flight = some f)
      (inCycle : f.inCycle c) (holds : cycleStep c s.passTurn = .hold) : step s = .next s.passTurn :=
    held isBusy flying (flightStep_cycleHold inCycle holds)
  show step s = .next s.passTurn
  rcases unanswered with ⟨isIdle, empty⟩ | ⟨isBusy, stream, f, y, flying, inCycle, noCheck⟩ |
    ⟨isBusy, answers, ⟨f, p, flying⟩ | ⟨f, n, p, flying⟩ | ⟨f, h, failed, flying, inCycle⟩⟩ |
    ⟨isBusy, answers, f, h, p, flying, inCycle | inCycle⟩
  · exact step_idle configured turn isIdle empty
  · exact heldCycle isBusy flying inCycle (cycleStep_sync_hold (s := s.passTurn) stream noCheck)
  · exact held isBusy flying (WriteOwner.once.flightStep_hold (s := s.passTurn) answers f p)
  · exact held isBusy flying ((WriteOwner.attempt n).flightStep_hold (s := s.passTurn) answers f p)
  · exact heldCycle isBusy flying inCycle (cycleStep_ackWrite_hold (s := s.passTurn) answers h failed)
  · exact heldCycle isBusy flying inCycle (cycleStep_create_hold (s := s.passTurn) answers h p)
  · exact heldCycle isBusy flying inCycle (cycleStep_process_hold (s := s.passTurn) answers h p)

/-! ### The write of the ack response (R311, 44_receive.md R214, R215) -/

/-- R311: a write that fails ends the cycle as a channel error, whatever became of the dispatch. -/
theorem cycleAckWrite_err {s : State} {k : Nat} {wr : List WrAnswer} (answers : s.chan.wr = .err k :: wr)
    (h : Header) (failed : Bool) :
    cycleAckWrite h failed s = .done .chanErr (s.afterWrite (.err k) (ackFrame s.cfg h.mid failed) wr) := by
  simp only [cycleAckWrite, chanWrite_of_wr answers]

/-- Settles O47: the write ends the cycle, by its answer. -/
theorem ackWriteErrorWins : Obligations.AckWriteErrorWins := by
  intro s h failed a wr runs answers
  rw [runs.step_flight]
  cases a with
  | ok =>
    have written := cycleAckWrite_ok (s := s.passTurn) answers h failed
    rw [flightStep_receiveDone (c := .ackWrite h failed) written, completeReceive_dispatched, ← dispatched_code]
    rfl
  | err k =>
    have failure := cycleAckWrite_err (s := s.passTurn) answers h failed
    rw [flightStep_receiveDone (c := .ackWrite h failed) failure]
    rfl

end Sys2Proof.Machine
end
